-- ==== Sys2Proof/Word.lean ====
section
/-!
DEFINITION. Word.lean: the machine's value types (spec/00_scope.md rules R5 to R7).

Every value is unsigned and there is no signed operation (R7), so a bit vector is read through `toNat` everywhere.
-/

namespace Sys2Proof

/-- An 8-bit value: a general register, a memory byte, a timer, an immediate `nn` (R5 REGW, TIMERW). -/
abbrev Byte := BitVec 8

/-- A 16-bit value: I, PC, a call-stack entry, an instruction word (R5 IW, PCW, STACKW). -/
abbrev Word := BitVec 16

/-- A 12-bit address immediate `nnn` (R49). -/
abbrev Imm12 := BitVec 12

/-- A register index 0..15; every index an instruction can name exists (R12). -/
abbrev Reg := Fin 16

/-- A hexadecimal digit used as a count or as a key number, 0..15 (R49 `n`; R22 key index). -/
abbrev Digit := Fin 16

/-- The flag register VF is `V[15]` (R13). -/
abbrev VF : Reg := 15

/-- One row of the display, 64 one-bit pixels: bit x is column x (R23, R94). -/
abbrev PixelRow := BitVec 64

end Sys2Proof
end

