-- ==== Sys2Proof/Syntax.lean ====
section
/-!
DEFINITION. Syntax.lean: the 35 instructions of the dispatch table (spec/30_encoding.md rule R47), one constructor per row of
spec/opcode_table.json, in the table's order, with exactly the operands the row decodes.

A digit a row does not decode (rule R52) is no operand: two words that differ only there are one instruction.
-/

namespace Sys2Proof

/-- The instructions. The operands' types are exactly the fields of rule R49 (x, y: register indices; nn: byte; nnn: 12-bit
address; n: digit), so every value an encoding can hold is a legal operand and nothing else is (R51). -/
inductive Instr where
  /-- Row 1, `0-E0`, CLS (R95). -/
  | cls
  /-- Row 2, `0-EE`, RET (R65). -/
  | ret
  /-- Row 3, `0-00`, SYS (R64). -/
  | sys
  /-- Row 4, `1nnn`, JP nnn (R66). -/
  | jp (nnn : Imm12)
  /-- Row 5, `2nnn`, CALL nnn (R67). -/
  | call (nnn : Imm12)
  /-- Row 6, `3xnn`, SE Vx,nn (R68). -/
  | seImm (x : Reg) (nn : Byte)
  /-- Row 7, `4xnn`, SNE Vx,nn (R69). -/
  | sneImm (x : Reg) (nn : Byte)
  /-- Row 8, `5xy-`, SE Vx,Vy (R70). -/
  | seReg (x y : Reg)
  /-- Row 9, `6xnn`, LD Vx,nn (R75). -/
  | ldImm (x : Reg) (nn : Byte)
  /-- Row 10, `7xnn`, ADD Vx,nn (R76). -/
  | addImm (x : Reg) (nn : Byte)
  /-- Row 11, `8xy0`, LD Vx,Vy (R77). -/
  | ldReg (x y : Reg)
  /-- Row 12, `8xy1`, OR Vx,Vy (R78). -/
  | orReg (x y : Reg)
  /-- Row 13, `8xy2`, AND Vx,Vy (R79). -/
  | andReg (x y : Reg)
  /-- Row 14, `8xy3`, XOR Vx,Vy (R80). -/
  | xorReg (x y : Reg)
  /-- Row 15, `8xy4`, ADD Vx,Vy (R81). -/
  | addReg (x y : Reg)
  /-- Row 16, `8xy5`, SUB Vx,Vy (R82). -/
  | subReg (x y : Reg)
  /-- Row 17, `8x-6`, SHR Vx (R83). -/
  | shr (x : Reg)
  /-- Row 18, `8xy7`, SUBN Vx,Vy (R84). -/
  | subnReg (x y : Reg)
  /-- Row 19, `8x-E`, SHL Vx (R85). -/
  | shl (x : Reg)
  /-- Row 20, `9xy-`, SNE Vx,Vy (R71). -/
  | sneReg (x y : Reg)
  /-- Row 21, `Annn`, LD I,nnn (R87). -/
  | ldI (nnn : Imm12)
  /-- Row 22, `Bnnn`, JP V0,nnn (R72). -/
  | jpV0 (nnn : Imm12)
  /-- Row 23, `Cxnn`, RND Vx,nn (R86). -/
  | rnd (x : Reg) (nn : Byte)
  /-- Row 24, `Dxyn`, DRW Vx,Vy,n (R96). -/
  | drw (x y : Reg) (n : Digit)
  /-- Row 25, `Ex9E`, SKP Vx (R101). -/
  | skp (x : Reg)
  /-- Row 26, `ExA1`, SKNP Vx (R102). -/
  | sknp (x : Reg)
  /-- Row 27, `Fx07`, LD Vx,DT (R104). -/
  | ldVxDT (x : Reg)
  /-- Row 28, `Fx0A`, LD Vx,K (R103). -/
  | ldVxK (x : Reg)
  /-- Row 29, `Fx15`, LD DT,Vx (R105). -/
  | ldDTVx (x : Reg)
  /-- Row 30, `Fx18`, LD ST,Vx (R106). -/
  | ldSTVx (x : Reg)
  /-- Row 31, `Fx1E`, ADD I,Vx (R88). -/
  | addIVx (x : Reg)
  /-- Row 32, `Fx29`, LD F,Vx (R89). -/
  | ldFVx (x : Reg)
  /-- Row 33, `Fx33`, LD B,Vx (R90). -/
  | ldBVx (x : Reg)
  /-- Row 34, `Fx55`, LD [I],Vx (R91). -/
  | ldMemVx (x : Reg)
  /-- Row 35, `Fx65`, LD Vx,[I] (R92). -/
  | ldVxMem (x : Reg)
deriving DecidableEq, Repr

end Sys2Proof
end

