-- ==== Sys2Proof/WellFormed.lean ====
section
/-!
DEFINITION. WellFormed.lean: the source form of an instruction (spec/30_encoding.md rule R56) and the check that a source
line is well-formed.

`Instr` carries its own well-formedness: its operand types hold exactly the values of rule R51. What can be ill-formed is the
source line an assembler reads: a mnemonic with operands of a shape no row has, or a number that does not fit its field.
-/

namespace Sys2Proof

/-- The mnemonics of the dispatch table's Mnemonic column (R47, R56); one mnemonic may name several rows. -/
inductive Mnemonic where
  | cls | ret | sys | jp | call | se | sne | ld | add | or | and | xor | sub | shr | subn | shl | rnd | drw | skp | sknp
deriving DecidableEq, Repr

/-- A source operand (R56): a register `V` and its number, a number, or one of the literal keywords. -/
inductive Operand where
  /-- `Vx`: the register whose number is given. -/
  | v (number : Nat)
  /-- A number, for `nn`, `nnn` or `n`. -/
  | num (value : Nat)
  /-- `I`, the index register. -/
  | i
  /-- `DT`, the delay timer. -/
  | dt
  /-- `ST`, the sound timer. -/
  | st
  /-- `K`, a key press. -/
  | k
  /-- `F`, the font glyph address of a digit. -/
  | f
  /-- `B`, the BCD decomposition. -/
  | b
  /-- `[I]`, the memory block starting at I. -/
  | memI
deriving DecidableEq, Repr

/-- A source line: a mnemonic and its operands (R56). -/
structure Line where
  mnemonic : Mnemonic
  operands : List Operand
deriving DecidableEq, Repr

/-- A register number names a register: V0 to VF (R12). -/
def regFits (x : Nat) : Bool := x < 16

/-- A number fits the byte immediate `nn` (R51). -/
def byteFits (nn : Nat) : Bool := nn < 256

/-- A number fits the address immediate `nnn` (R51). -/
def addressFits (nnn : Nat) : Bool := nnn < 4096

/-- A number fits the row count `n` of DRW (R51). -/
def digitFits (n : Nat) : Bool := n < 16

/-- The line is one of the 35 forms of the Mnemonic column (R47, R56) and each of its numbers fits its field (R51). -/
def Line.wellFormed : Line → Bool
  | ⟨.cls, []⟩ => true
  | ⟨.ret, []⟩ => true
  | ⟨.sys, []⟩ => true
  | ⟨.jp, [.num a]⟩ => addressFits a
  | ⟨.jp, [.v x, .num a]⟩ => x == 0 && addressFits a
  | ⟨.call, [.num a]⟩ => addressFits a
  | ⟨.se, [.v x, .num n]⟩ => regFits x && byteFits n
  | ⟨.se, [.v x, .v y]⟩ => regFits x && regFits y
  | ⟨.sne, [.v x, .num n]⟩ => regFits x && byteFits n
  | ⟨.sne, [.v x, .v y]⟩ => regFits x && regFits y
  | ⟨.ld, [.v x, .num n]⟩ => regFits x && byteFits n
  | ⟨.ld, [.v x, .v y]⟩ => regFits x && regFits y
  | ⟨.ld, [.i, .num a]⟩ => addressFits a
  | ⟨.ld, [.v x, .dt]⟩ => regFits x
  | ⟨.ld, [.v x, .k]⟩ => regFits x
  | ⟨.ld, [.dt, .v x]⟩ => regFits x
  | ⟨.ld, [.st, .v x]⟩ => regFits x
  | ⟨.ld, [.f, .v x]⟩ => regFits x
  | ⟨.ld, [.b, .v x]⟩ => regFits x
  | ⟨.ld, [.memI, .v x]⟩ => regFits x
  | ⟨.ld, [.v x, .memI]⟩ => regFits x
  | ⟨.add, [.v x, .num n]⟩ => regFits x && byteFits n
  | ⟨.add, [.v x, .v y]⟩ => regFits x && regFits y
  | ⟨.add, [.i, .v x]⟩ => regFits x
  | ⟨.or, [.v x, .v y]⟩ => regFits x && regFits y
  | ⟨.and, [.v x, .v y]⟩ => regFits x && regFits y
  | ⟨.xor, [.v x, .v y]⟩ => regFits x && regFits y
  | ⟨.sub, [.v x, .v y]⟩ => regFits x && regFits y
  | ⟨.shr, [.v x]⟩ => regFits x
  | ⟨.subn, [.v x, .v y]⟩ => regFits x && regFits y
  | ⟨.shl, [.v x]⟩ => regFits x
  | ⟨.rnd, [.v x, .num n]⟩ => regFits x && byteFits n
  | ⟨.drw, [.v x, .v y, .num n]⟩ => regFits x && regFits y && digitFits n
  | ⟨.skp, [.v x]⟩ => regFits x
  | ⟨.sknp, [.v x]⟩ => regFits x
  | _ => false

/-- The source line of an instruction: the mnemonic of its row with its fields filled in (R60). -/
def Instr.line : Instr → Line
  | .cls => ⟨.cls, []⟩
  | .ret => ⟨.ret, []⟩
  | .sys => ⟨.sys, []⟩
  | .jp nnn => ⟨.jp, [.num nnn.toNat]⟩
  | .call nnn => ⟨.call, [.num nnn.toNat]⟩
  | .seImm x nn => ⟨.se, [.v x.val, .num nn.toNat]⟩
  | .sneImm x nn => ⟨.sne, [.v x.val, .num nn.toNat]⟩
  | .seReg x y => ⟨.se, [.v x.val, .v y.val]⟩
  | .ldImm x nn => ⟨.ld, [.v x.val, .num nn.toNat]⟩
  | .addImm x nn => ⟨.add, [.v x.val, .num nn.toNat]⟩
  | .ldReg x y => ⟨.ld, [.v x.val, .v y.val]⟩
  | .orReg x y => ⟨.or, [.v x.val, .v y.val]⟩
  | .andReg x y => ⟨.and, [.v x.val, .v y.val]⟩
  | .xorReg x y => ⟨.xor, [.v x.val, .v y.val]⟩
  | .addReg x y => ⟨.add, [.v x.val, .v y.val]⟩
  | .subReg x y => ⟨.sub, [.v x.val, .v y.val]⟩
  | .shr x => ⟨.shr, [.v x.val]⟩
  | .subnReg x y => ⟨.subn, [.v x.val, .v y.val]⟩
  | .shl x => ⟨.shl, [.v x.val]⟩
  | .sneReg x y => ⟨.sne, [.v x.val, .v y.val]⟩
  | .ldI nnn => ⟨.ld, [.i, .num nnn.toNat]⟩
  | .jpV0 nnn => ⟨.jp, [.v 0, .num nnn.toNat]⟩
  | .rnd x nn => ⟨.rnd, [.v x.val, .num nn.toNat]⟩
  | .drw x y n => ⟨.drw, [.v x.val, .v y.val, .num n.val]⟩
  | .skp x => ⟨.skp, [.v x.val]⟩
  | .sknp x => ⟨.sknp, [.v x.val]⟩
  | .ldVxDT x => ⟨.ld, [.v x.val, .dt]⟩
  | .ldVxK x => ⟨.ld, [.v x.val, .k]⟩
  | .ldDTVx x => ⟨.ld, [.dt, .v x.val]⟩
  | .ldSTVx x => ⟨.ld, [.st, .v x.val]⟩
  | .addIVx x => ⟨.add, [.i, .v x.val]⟩
  | .ldFVx x => ⟨.ld, [.f, .v x.val]⟩
  | .ldBVx x => ⟨.ld, [.b, .v x.val]⟩
  | .ldMemVx x => ⟨.ld, [.memI, .v x.val]⟩
  | .ldVxMem x => ⟨.ld, [.v x.val, .memI]⟩

/-- An instruction is well-formed when its source line is; its operand types make every instruction so
(`Sys2Proof.Instr.wellFormed_always`). -/
def Instr.wellFormed (i : Instr) : Bool := i.line.wellFormed

end Sys2Proof
end

