-- ==== Sys2Proof/Decode.lean ====
section
/-!
DEFINITION. Decode.lean: the decoder of spec/30_encoding.md rules R47 to R59, the encoder of rule R58, and the assembler and
disassembler conventions of rules R56 and R60.

Decoding is total and needs no context (R55): every word is one of the 35 instructions or an unknown opcode (R53, R54).
-/

namespace Sys2Proof

/-- Why bytes decode to no instruction. -/
inductive DecodeError where
  /-- The word matches no row of the dispatch table (R53); the step then raises UnknownOpcode (R114). -/
  | unknownOpcode (w : Word)
  /-- Fewer than the two bytes of an instruction were given (R48). A step never meets this: its fetch always has two bytes. -/
  | truncated (bytes : List Byte)
deriving DecidableEq, Repr

/-! ## Fields of a word (R49) -/

/-- `op = w[15:12]`, the primary dispatch key (R49). -/
def fieldOp (w : Word) : Nat := w.toNat / 4096

/-- `x = w[11:8]` (R49). -/
def fieldX (w : Word) : Reg := ⟨w.toNat / 256 % 16, Nat.mod_lt _ (by decide)⟩

/-- `y = w[7:4]` (R49). -/
def fieldY (w : Word) : Reg := ⟨w.toNat / 16 % 16, Nat.mod_lt _ (by decide)⟩

/-- `n = w[3:0]`: secondary key in group 8, row count in DRW (R49). -/
def fieldN (w : Word) : Digit := ⟨w.toNat % 16, Nat.mod_lt _ (by decide)⟩

/-- `nn = w[7:0]`: byte immediate, secondary key in groups 0, E and F (R49). -/
def fieldNN (w : Word) : Byte := BitVec.ofNat 8 (w.toNat % 256)

/-- `nnn = w[11:0]`: address immediate (R49). -/
def fieldNNN (w : Word) : Imm12 := BitVec.ofNat 12 (w.toNat % 4096)

/-- The word of two bytes: the byte at the lower address is `w[15:8]`, the next one `w[7:0]` (R34). -/
def wordOfBytes (hi lo : Byte) : Word := BitVec.ofNat 16 (hi.toNat * 256 + lo.toNat)

/-! ## The decoder -/

/-- The dispatch table in its two-level form: primary key `op`, secondary key `nn` or `n` (R47, R59). Digits outside the keys
and the operands are not looked at (R52). -/
def decodeWord (w : Word) : Except DecodeError Instr :=
  match fieldOp w with
  | 0x0 =>
    match (fieldNN w).toNat with
    | 0xE0 => .ok .cls
    | 0xEE => .ok .ret
    | 0x00 => .ok .sys
    | _ => .error (.unknownOpcode w)
  | 0x1 => .ok (.jp (fieldNNN w))
  | 0x2 => .ok (.call (fieldNNN w))
  | 0x3 => .ok (.seImm (fieldX w) (fieldNN w))
  | 0x4 => .ok (.sneImm (fieldX w) (fieldNN w))
  | 0x5 => .ok (.seReg (fieldX w) (fieldY w))
  | 0x6 => .ok (.ldImm (fieldX w) (fieldNN w))
  | 0x7 => .ok (.addImm (fieldX w) (fieldNN w))
  | 0x8 =>
    match (fieldN w).val with
    | 0x0 => .ok (.ldReg (fieldX w) (fieldY w))
    | 0x1 => .ok (.orReg (fieldX w) (fieldY w))
    | 0x2 => .ok (.andReg (fieldX w) (fieldY w))
    | 0x3 => .ok (.xorReg (fieldX w) (fieldY w))
    | 0x4 => .ok (.addReg (fieldX w) (fieldY w))
    | 0x5 => .ok (.subReg (fieldX w) (fieldY w))
    | 0x6 => .ok (.shr (fieldX w))
    | 0x7 => .ok (.subnReg (fieldX w) (fieldY w))
    | 0xE => .ok (.shl (fieldX w))
    | _ => .error (.unknownOpcode w)
  | 0x9 => .ok (.sneReg (fieldX w) (fieldY w))
  | 0xA => .ok (.ldI (fieldNNN w))
  | 0xB => .ok (.jpV0 (fieldNNN w))
  | 0xC => .ok (.rnd (fieldX w) (fieldNN w))
  | 0xD => .ok (.drw (fieldX w) (fieldY w) (fieldN w))
  | 0xE =>
    match (fieldNN w).toNat with
    | 0x9E => .ok (.skp (fieldX w))
    | 0xA1 => .ok (.sknp (fieldX w))
    | _ => .error (.unknownOpcode w)
  | 0xF =>
    match (fieldNN w).toNat with
    | 0x07 => .ok (.ldVxDT (fieldX w))
    | 0x0A => .ok (.ldVxK (fieldX w))
    | 0x15 => .ok (.ldDTVx (fieldX w))
    | 0x18 => .ok (.ldSTVx (fieldX w))
    | 0x1E => .ok (.addIVx (fieldX w))
    | 0x29 => .ok (.ldFVx (fieldX w))
    | 0x33 => .ok (.ldBVx (fieldX w))
    | 0x55 => .ok (.ldMemVx (fieldX w))
    | 0x65 => .ok (.ldVxMem (fieldX w))
    | _ => .error (.unknownOpcode w)
  | _ => .error (.unknownOpcode w)

/-- Decode the instruction at the head of a byte list; an instruction is always 2 bytes (R48), big-endian (R34). -/
def decodeBytes : List Byte → Except DecodeError (Instr × List Byte)
  | hi :: lo :: rest =>
    match decodeWord (wordOfBytes hi lo) with
    | .ok i => .ok (i, rest)
    | .error e => .error e
  | short => .error (.truncated short)

/-- The decoder's reading of an instruction whose low `nbits` bits are `w`, numbered as spec/opcode_table.json numbers them;
the bits above `nbits` are 0. The high byte of the word stands first in memory (R34). -/
def decodeTableWord (nbits w : Nat) : Option Instr :=
  match decodeBytes [BitVec.ofNat 8 (w % 2 ^ nbits / 256), BitVec.ofNat 8 (w % 2 ^ nbits % 256)] with
  | .ok (i, _) => some i
  | .error _ => none

/-! ## The encoder -/

/-- A word of format I or X: op, x, nn (R50). -/
def wordXNN (op : Nat) (x : Reg) (nn : Byte) : Word := BitVec.ofNat 16 (op * 4096 + x.val * 256 + nn.toNat)

/-- A word of format R: op, x, y, n (R50). -/
def wordXYN (op : Nat) (x y : Reg) (n : Digit) : Word :=
  BitVec.ofNat 16 (op * 4096 + x.val * 256 + y.val * 16 + n.val)

/-- A word of format A: op, nnn (R50). -/
def wordNNN (op : Nat) (nnn : Imm12) : Word := BitVec.ofNat 16 (op * 4096 + nnn.toNat)

/-- The canonical encoding of an instruction: the pattern of its row with 0 in each digit that is not decoded (R58). -/
def encode : Instr → Word
  | .cls => 0x00E0
  | .ret => 0x00EE
  | .sys => 0x0000
  | .jp nnn => wordNNN 0x1 nnn
  | .call nnn => wordNNN 0x2 nnn
  | .seImm x nn => wordXNN 0x3 x nn
  | .sneImm x nn => wordXNN 0x4 x nn
  | .seReg x y => wordXYN 0x5 x y 0
  | .ldImm x nn => wordXNN 0x6 x nn
  | .addImm x nn => wordXNN 0x7 x nn
  | .ldReg x y => wordXYN 0x8 x y 0x0
  | .orReg x y => wordXYN 0x8 x y 0x1
  | .andReg x y => wordXYN 0x8 x y 0x2
  | .xorReg x y => wordXYN 0x8 x y 0x3
  | .addReg x y => wordXYN 0x8 x y 0x4
  | .subReg x y => wordXYN 0x8 x y 0x5
  | .shr x => wordXYN 0x8 x 0 0x6
  | .subnReg x y => wordXYN 0x8 x y 0x7
  | .shl x => wordXYN 0x8 x 0 0xE
  | .sneReg x y => wordXYN 0x9 x y 0
  | .ldI nnn => wordNNN 0xA nnn
  | .jpV0 nnn => wordNNN 0xB nnn
  | .rnd x nn => wordXNN 0xC x nn
  | .drw x y n => wordXYN 0xD x y n
  | .skp x => wordXNN 0xE x 0x9E
  | .sknp x => wordXNN 0xE x 0xA1
  | .ldVxDT x => wordXNN 0xF x 0x07
  | .ldVxK x => wordXNN 0xF x 0x0A
  | .ldDTVx x => wordXNN 0xF x 0x15
  | .ldSTVx x => wordXNN 0xF x 0x18
  | .addIVx x => wordXNN 0xF x 0x1E
  | .ldFVx x => wordXNN 0xF x 0x29
  | .ldBVx x => wordXNN 0xF x 0x33
  | .ldMemVx x => wordXNN 0xF x 0x55
  | .ldVxMem x => wordXNN 0xF x 0x65

/-- The digits of an instruction's row that are decoded (keys and operands), as a mask over the word; the other digits are the
`-` of the row's pattern (R47, R52). -/
def decodedDigits : Instr → Word
  | .cls | .ret | .sys => 0xF0FF
  | .seReg _ _ | .sneReg _ _ => 0xFFF0
  | .shr _ | .shl _ => 0xFF0F
  | .jp _ | .call _ | .seImm _ _ | .sneImm _ _ | .ldImm _ _ | .addImm _ _ | .ldReg _ _ | .orReg _ _ | .andReg _ _ | .xorReg _ _
  | .addReg _ _ | .subReg _ _ | .subnReg _ _ | .ldI _ | .jpV0 _ | .rnd _ _ | .drw _ _ _ | .skp _ | .sknp _ | .ldVxDT _ | .ldVxK _
  | .ldDTVx _ | .ldSTVx _ | .addIVx _ | .ldFVx _ | .ldBVx _ | .ldMemVx _ | .ldVxMem _ => 0xFFFF

/-- The mask of an instruction's row: the digits of its dispatch key (R47). -/
def rowMask : Instr → Word
  | .cls | .ret | .sys | .skp _ | .sknp _ | .ldVxDT _ | .ldVxK _ | .ldDTVx _ | .ldSTVx _ | .addIVx _ | .ldFVx _
  | .ldBVx _ | .ldMemVx _ | .ldVxMem _ => 0xF0FF
  | .jp _ | .call _ | .seImm _ _ | .sneImm _ _ | .seReg _ _ | .ldImm _ _ | .addImm _ _ | .sneReg _ _ | .ldI _ | .jpV0 _
  | .rnd _ _ | .drw _ _ _ => 0xF000
  | .ldReg _ _ | .orReg _ _ | .andReg _ _ | .xorReg _ _ | .addReg _ _ | .subReg _ _ | .shr _ | .subnReg _ _
  | .shl _ => 0xF00F

/-- The match of an instruction's row: the key's digits (R47). -/
def rowMatch : Instr → Word
  | .cls => 0x00E0
  | .ret => 0x00EE
  | .sys => 0x0000
  | .jp _ => 0x1000
  | .call _ => 0x2000
  | .seImm _ _ => 0x3000
  | .sneImm _ _ => 0x4000
  | .seReg _ _ => 0x5000
  | .ldImm _ _ => 0x6000
  | .addImm _ _ => 0x7000
  | .ldReg _ _ => 0x8000
  | .orReg _ _ => 0x8001
  | .andReg _ _ => 0x8002
  | .xorReg _ _ => 0x8003
  | .addReg _ _ => 0x8004
  | .subReg _ _ => 0x8005
  | .shr _ => 0x8006
  | .subnReg _ _ => 0x8007
  | .shl _ => 0x800E
  | .sneReg _ _ => 0x9000
  | .ldI _ => 0xA000
  | .jpV0 _ => 0xB000
  | .rnd _ _ => 0xC000
  | .drw _ _ _ => 0xD000
  | .skp _ => 0xE09E
  | .sknp _ => 0xE0A1
  | .ldVxDT _ => 0xF007
  | .ldVxK _ => 0xF00A
  | .ldDTVx _ => 0xF015
  | .ldSTVx _ => 0xF018
  | .addIVx _ => 0xF01E
  | .ldFVx _ => 0xF029
  | .ldBVx _ => 0xF033
  | .ldMemVx _ => 0xF055
  | .ldVxMem _ => 0xF065

/-- The bytes of an instruction as they stand in memory, the high byte first (R34, R58). -/
def encodeBytes (i : Instr) : List Byte :=
  [BitVec.ofNat 8 ((encode i).toNat / 256), BitVec.ofNat 8 ((encode i).toNat % 256)]

/-! ## Assembler and disassembler (R56, R58, R60) -/

/-- A register operand's number as a register; used only where `regFits` holds. -/
def regOf (x : Nat) : Reg := Fin.ofNat 16 x

/-- The row a source line's mnemonic and operand shapes select (R56), its numbers taken as fields. -/
def Line.row? : Line → Option Instr
  | ⟨.cls, []⟩ => some .cls
  | ⟨.ret, []⟩ => some .ret
  | ⟨.sys, []⟩ => some .sys
  | ⟨.jp, [.num a]⟩ => some (.jp (BitVec.ofNat 12 a))
  | ⟨.jp, [.v _, .num a]⟩ => some (.jpV0 (BitVec.ofNat 12 a))
  | ⟨.call, [.num a]⟩ => some (.call (BitVec.ofNat 12 a))
  | ⟨.se, [.v x, .num n]⟩ => some (.seImm (regOf x) (BitVec.ofNat 8 n))
  | ⟨.se, [.v x, .v y]⟩ => some (.seReg (regOf x) (regOf y))
  | ⟨.sne, [.v x, .num n]⟩ => some (.sneImm (regOf x) (BitVec.ofNat 8 n))
  | ⟨.sne, [.v x, .v y]⟩ => some (.sneReg (regOf x) (regOf y))
  | ⟨.ld, [.v x, .num n]⟩ => some (.ldImm (regOf x) (BitVec.ofNat 8 n))
  | ⟨.ld, [.v x, .v y]⟩ => some (.ldReg (regOf x) (regOf y))
  | ⟨.ld, [.i, .num a]⟩ => some (.ldI (BitVec.ofNat 12 a))
  | ⟨.ld, [.v x, .dt]⟩ => some (.ldVxDT (regOf x))
  | ⟨.ld, [.v x, .k]⟩ => some (.ldVxK (regOf x))
  | ⟨.ld, [.dt, .v x]⟩ => some (.ldDTVx (regOf x))
  | ⟨.ld, [.st, .v x]⟩ => some (.ldSTVx (regOf x))
  | ⟨.ld, [.f, .v x]⟩ => some (.ldFVx (regOf x))
  | ⟨.ld, [.b, .v x]⟩ => some (.ldBVx (regOf x))
  | ⟨.ld, [.memI, .v x]⟩ => some (.ldMemVx (regOf x))
  | ⟨.ld, [.v x, .memI]⟩ => some (.ldVxMem (regOf x))
  | ⟨.add, [.v x, .num n]⟩ => some (.addImm (regOf x) (BitVec.ofNat 8 n))
  | ⟨.add, [.v x, .v y]⟩ => some (.addReg (regOf x) (regOf y))
  | ⟨.add, [.i, .v x]⟩ => some (.addIVx (regOf x))
  | ⟨.or, [.v x, .v y]⟩ => some (.orReg (regOf x) (regOf y))
  | ⟨.and, [.v x, .v y]⟩ => some (.andReg (regOf x) (regOf y))
  | ⟨.xor, [.v x, .v y]⟩ => some (.xorReg (regOf x) (regOf y))
  | ⟨.sub, [.v x, .v y]⟩ => some (.subReg (regOf x) (regOf y))
  | ⟨.shr, [.v x]⟩ => some (.shr (regOf x))
  | ⟨.subn, [.v x, .v y]⟩ => some (.subnReg (regOf x) (regOf y))
  | ⟨.shl, [.v x]⟩ => some (.shl (regOf x))
  | ⟨.rnd, [.v x, .num n]⟩ => some (.rnd (regOf x) (BitVec.ofNat 8 n))
  | ⟨.drw, [.v x, .v y, .num n]⟩ => some (.drw (regOf x) (regOf y) (Fin.ofNat 16 n))
  | ⟨.skp, [.v x]⟩ => some (.skp (regOf x))
  | ⟨.sknp, [.v x]⟩ => some (.sknp (regOf x))
  | _ => none

/-- The instruction a source line stands for; none where the line is ill-formed (R56). -/
def Line.instr? (l : Line) : Option Instr := if l.wellFormed then l.row? else none

/-- Assemble a source line: the canonical word of its instruction (R58). -/
def assemble (l : Line) : Option Word := l.instr?.map encode

/-- What a word is printed as (R60). -/
inductive Listing where
  /-- The mnemonic of the row the word matches, with its fields filled in. -/
  | line (l : Line)
  /-- `.word 0xhhhh`, for a word that matches no row. -/
  | word (w : Word)
deriving DecidableEq, Repr

/-- Disassemble a word (R60). -/
def disassemble (w : Word) : Listing :=
  match decodeWord w with
  | .ok i => .line i.line
  | .error _ => .word w

/-- Assemble one listing entry; `.word` gives the word as it stands. -/
def Listing.assemble? : Listing → Option Word
  | .line l => assemble l
  | .word w => some w

end Sys2Proof
end

