-- ==== Sys2Proof/Config.lean ====
section
/-!
DEFINITION. Config.lean: the parameters of the core that never change (spec/00_scope.md rule R5) and its one free value.

The FONT parameter is data of the state: Machine/Font.lean.
-/

namespace Sys2Proof

/-- MEMSIZE: bytes of main memory; an address is reduced modulo this (R5, R36). -/
abbrev Config.memSize : Nat := 4096

/-- PROG_BASE: load address of the program and reset value of PC (R5). -/
abbrev Config.progBase : Nat := 0x200

/-- MAX_ROM: longest program image in bytes, 4096 - 0x200 (R5, R117). -/
abbrev Config.maxRom : Nat := 3584

/-- FONT_GLYPH_BYTES: bytes per glyph; glyph d is at [5d, 5d+5) (R5, R19). -/
abbrev Config.glyphBytes : Nat := 5

/-- FREE VALUE (assumption 3; R86, decision D8). `Config.rnd k` is the k-th draw of RND: the 8-bit input `rnd` of that step,
under no law. It has no body, so no proof can use a value of it: a theorem about RND holds for every draw. -/
opaque Config.rnd : Nat → Byte

end Sys2Proof
end

