-- ==== Sys2Proof/Machine/Font.lean ====
section
/-!
DEFINITION. Machine/Font.lean: the FONT parameter (spec/10_state.md rules R18 to R20): its type, its default value, and the memory
contents `reset` installs from it.
-/

namespace Sys2Proof.Machine

/-- A value of the FONT parameter: 80 bytes, glyph d at [5d, 5d+5) (R19, R20). -/
abbrev Font := Vector Byte 80

/-- The bytes of the default FONT, glyph 0 first (R20, decision D13; assumption 4). -/
def defaultFontBytes : List Byte :=
  [0xF0, 0x90, 0x90, 0x90, 0xF0, 0x20, 0x60, 0x20, 0x20, 0x70] ++
  [0xF0, 0x10, 0xF0, 0x80, 0xF0, 0xF0, 0x10, 0xF0, 0x10, 0xF0] ++
  [0x90, 0x90, 0xF0, 0x10, 0x10, 0xF0, 0x80, 0xF0, 0x10, 0xF0] ++
  [0xF0, 0x80, 0xF0, 0x90, 0xF0, 0xF0, 0x10, 0x20, 0x40, 0x40] ++
  [0xF0, 0x90, 0xF0, 0x90, 0xF0, 0xF0, 0x90, 0xF0, 0x10, 0xF0] ++
  [0xF0, 0x90, 0xF0, 0x90, 0x90, 0xE0, 0x90, 0xE0, 0x90, 0xE0] ++
  [0xF0, 0x80, 0x80, 0x80, 0xF0, 0xE0, 0x90, 0x90, 0x90, 0xE0] ++
  [0xF0, 0x80, 0xF0, 0x80, 0xF0, 0xF0, 0x80, 0xF0, 0x80, 0x80]

/-- The default of the FONT parameter (R20). A claim that uses one of its bytes names `font = defaultFont` as its premise. -/
def defaultFont : Font := ⟨defaultFontBytes.toArray, by decide⟩

/-- The byte `reset` installs at an address: FONT at [0, 80) and 0 elsewhere (R18, R29). -/
def resetByte (font : Font) (a : Nat) : Byte := if h : a < 80 then font.get ⟨a, h⟩ else 0

end Sys2Proof.Machine
end

