-- ==== Sys2Proof/Machine/State.lean ====
section
/-!
DEFINITION. Machine/State.lean: the machine's state (spec/10_state.md rule R11), its value after reset (rule R29), and the
reasons a step could stop.
-/

namespace Sys2Proof.Machine

/-- Main memory (R17) as the bytes that differ from the contents `reset` installs, by address: strictly rising, no byte equal to
what an unlisted address reads as, which the FONT parameter settles (`Memory.wf`). -/
abbrev Memory := List Host.Cell

/-- The status result of a step (R112). -/
inductive Status where
  /-- The instruction executed, or LD Vx,K found no key and waits. -/
  | ok
  /-- The fetched word matches no row of the dispatch table (R114). -/
  | unknownOpcode
  /-- CALL with SP = 16 (R115). -/
  | stackOverflow
  /-- RET with SP = 0 (R116). -/
  | stackUnderflow
deriving DecidableEq, Repr

/-- Reasons the machine stops with a fault: there are none. No condition stops the core (R113, R118); its errors are statuses of
a step that goes on to a next state. -/
inductive Fault
deriving DecidableEq, Repr

/-- Reasons an instruction has no meaning in the model. -/
inductive Refusal where
  /-- Raised only by an arm of `exec` whose instruction has no meaning yet; no arm does. Safe: the model says nothing there. -/
  | notModelled (mnemonic : String)
deriving DecidableEq, Repr

/-- The state. The first eleven fields are the spec's MachineState, whole (R11); the last four are the model's own: two hold the
results of the last step (assumption 2), one counts the draws of RND (assumption 3), one carries the FONT parameter (assumption 4). -/
structure State where
  /-- The general registers V0..VF (R12). -/
  v : Vector Byte 16
  /-- The index register I (R15). -/
  i : Word
  /-- The program counter PC (R16). -/
  pc : Word
  /-- Main memory MEM (R17). -/
  mem : Memory
  /-- The call stack STK (R21). -/
  stk : Vector Word 16
  /-- The stack pointer SP, the number of entries in use, 0..16 (R21); 17..31 cannot occur (R27). -/
  sp : Fin 17
  /-- The key latch KEY, true = pressed (R22). -/
  key : Vector Bool 16
  /-- The display PIX by rows: bit x of row y is pixel y*64+x (R23, R94). -/
  pix : Vector PixelRow 32
  /-- The delay timer DT (R24). -/
  dt : Byte
  /-- The sound timer ST (R25). -/
  st : Byte
  /-- redrawPending RP (R26). -/
  rp : Bool
  /-- The `status` result of the last step (R112); the model's own field (assumption 2). -/
  status : Status
  /-- The `changed` result of the last step (R100); the model's own field (assumption 2). -/
  changed : Bool
  /-- How many draws RND has taken; the model's own field (assumption 3). -/
  draws : Nat
  /-- The FONT parameter of this core (R20): no instruction and no transaction writes it. A statement over every state is one over
  every FONT; a claim about a glyph has a premise on this field (assumption 4). -/
  font : Font
deriving DecidableEq, Repr

/-- The state after `reset` of a core with the given FONT (R29): every field zero, PC = 0x200, memory as reset installs it (nothing
listed). -/
def State.resetWith (font : Font) : State where
  v := Vector.replicate 16 0
  i := 0
  pc := 0x200
  mem := []
  stk := Vector.replicate 16 0
  sp := 0
  key := Vector.replicate 16 false
  pix := Vector.replicate 32 0
  dt := 0
  st := 0
  rp := false
  status := .ok
  changed := false
  draws := 0
  font := font

/-- The state after `reset` with FONT at its default (R20, R29). What it reads below 0x050 is the premise `font = defaultFont`
(assumption 4). -/
def State.reset : State := State.resetWith defaultFont

end Sys2Proof.Machine
end

