-- ==== Sys2Proof/Machine/Memory.lean ====
section
/-!
DEFINITION. Machine/Memory.lean: the canonical form of memory over the contents `reset` installs (spec/10_state.md rule R18), and
its byte read and write (spec/20_memory.md rules R36 to R38).
-/

namespace Sys2Proof.Machine

/-- The canonical form: addresses in range and strictly rising, no entry equal to what its address reads as when unlisted. -/
abbrev Memory.wf (font : Font) (m : Memory) : Prop :=
  m.Pairwise (fun c d => c.1 < d.1) ∧ ∀ c ∈ m, c.1 < 4096 ∧ c.2 ≠ resetByte font c.1

/-- The byte at an address below 4096: the listed byte, else what `reset` installs there. -/
def Memory.read (font : Font) : Memory → Nat → Byte
  | [], a => resetByte font a
  | (b, v) :: m, a => if a = b then v else Memory.read font m a

/-- List a byte at its place, in the place of an entry for the same address. -/
def Memory.insert : Memory → Nat → Byte → Memory
  | [], a, v => [(a, v)]
  | (b, w) :: m, a, v =>
    if a < b then (a, v) :: (b, w) :: m else if a = b then (a, v) :: m else (b, w) :: Memory.insert m a v

/-- Unlist an address. -/
def Memory.erase (m : Memory) (a : Nat) : Memory := m.filter (fun c => c.1 ≠ a)

/-- Write a byte at an address below 4096, keeping the canonical form. -/
def Memory.write (font : Font) (m : Memory) (a : Nat) (v : Byte) : Memory :=
  if v = resetByte font a then Memory.erase m a else Memory.insert m a v

/-- `MemRead(addr, 1)`: the byte `MEM[addr mod 4096]`; it changes nothing and cannot fail (R36, R37). -/
def State.memRead (s : State) (a : Nat) : Byte := Memory.read s.font s.mem (a % Config.memSize)

/-- `MemWrite(addr, 1, v)`: `MEM[addr mod 4096] <- v`, and no other byte changes; it cannot fail (R36, R38). -/
def State.memWrite (s : State) (a : Nat) (v : Byte) : State :=
  { s with mem := Memory.write s.font s.mem (a % Config.memSize) v }

end Sys2Proof.Machine
end

