-- ==== Sys2Proof/Machine/Ops.lean ====
section
/-!
DEFINITION. Machine/Ops.lean: the named operations over the state that the meanings are made of: registers, PC, call stack,
fetch, and the two ways a step ends (spec/40_step_and_flow.md rules R61 to R63, spec/60_exceptions.md rule R113).
-/

namespace Sys2Proof.Machine

/-! ## General registers -/

/-- Read `V[r]` (R12): every register holds what was last written to it; none is hardwired. -/
def State.getV (s : State) (r : Reg) : Byte := s.v.get r

/-- Write `V[r]` (R12). -/
def State.setV (s : State) (r : Reg) (b : Byte) : State := { s with v := s.v.set r.val b r.isLt }

/-- A flag as the byte VF holds: exactly 0 or 1 (R13). -/
def flagByte (f : Bool) : Byte := if f then 1 else 0

/-- Write the flag register. A meaning does this after it has written its result, so the flag wins where the result's register
is VF (R13, C1). -/
def State.setFlag (s : State) (f : Bool) : State := s.setV VF (flagByte f)

/-! ## I and PC -/

/-- Write I (R15); a write stores the value mod 65536 (R62). -/
def State.setI (s : State) (w : Word) : State := { s with i := w }

/-- Write PC (R16); no target is checked, masked or refused (R30, R73). -/
def State.setPc (s : State) (w : Word) : State := { s with pc := w }

/-- `pc <- PC + 2`, mod 65536 (R62, R63). -/
def State.advance (s : State) : State := s.setPc (s.pc + 2)

/-- The skip of R63: PC + 4 if the condition holds, else PC + 2, mod 65536. -/
def State.skipIf (s : State) (c : Bool) : State := s.setPc (if c then s.pc + 4 else s.pc + 2)

/-! ## Call stack -/

/-- Write `STK[k]` (R21). -/
def State.setStk (s : State) (k : Fin 16) (w : Word) : State := { s with stk := s.stk.set k.val w k.isLt }

/-- Write SP (R21). -/
def State.setSp (s : State) (n : Fin 17) : State := { s with sp := n }

/-! ## Timers -/

/-- Write DT (R24). -/
def State.setDt (s : State) (b : Byte) : State := { s with dt := b }

/-- Write ST (R25). -/
def State.setSt (s : State) (b : Byte) : State := { s with st := b }

/-! ## The draw of RND -/

/-- The 8-bit draw this step would take (R86, D8): the free value of Config at the number of draws taken. -/
def State.draw (s : State) : Byte := Config.rnd s.draws

/-- Count the draw as taken, so that the next RND takes a fresh one. -/
def State.drawn (s : State) : State := { s with draws := s.draws + 1 }

/-! ## Fetch -/

/-- The instruction word at PC: two consecutive bytes, big-endian, each address mod 4096; PC keeps its 16 bits (R34, R36, R61). -/
def State.fetch (s : State) : Word := wordOfBytes (s.memRead s.pc.toNat) (s.memRead (s.pc.toNat + 1))

/-! ## How a step ends -/

/-- The numeric code of a status (R112, D6); nothing in the core depends on it (U16). -/
def Status.code : Status → Nat
  | .ok => 0
  | .unknownOpcode => 1
  | .stackOverflow => 2
  | .stackUnderflow => 3

/-- A step that ends with status OK and the given `changed` result (R61, R100). -/
def State.finish (s : State) (changed : Bool) : Host.Outcome State Fault Refusal :=
  .next { s with status := .ok, changed := changed }

/-- `raise`: the step ends at once with an error status and `changed` = 0, and has written nothing: every field of the machine,
PC included, is as before the step (R113). There is no handler, no saved state and no return (R121, R122): this is the whole
effect of an error. The caller gives the state as it was before the step. -/
def State.raise (s : State) (e : Status) : Host.Outcome State Fault Refusal :=
  .next { s with status := e, changed := false }

/-- A sequential instruction's end: PC + 2, status OK, display not changed (R63). -/
def State.sequential (s : State) : Host.Outcome State Fault Refusal := s.advance.finish false

end Sys2Proof.Machine
end

