-- ==== Sys2Proof/Machine/Flags.lean ====
section
/-!
DEFINITION. Machine/Flags.lean: every flag computation of the instruction set (spec/10_state.md rule R13, spec/41_alu.md rule
R74), each as a Bool over the operands as they were before the instruction.
-/

namespace Sys2Proof.Machine

/-- Carry out of bit 7 of ADD Vx,Vy: the exact sum exceeds 255 (R81). -/
def carryOut (a b : Byte) : Bool := a.toNat + b.toNat > 255

/-- No borrow of `a - b`: the minuend is at least the subtrahend, so equal operands give 1 (R74, R82, R84). -/
def noBorrow (a b : Byte) : Bool := b.toNat ≤ a.toNat

/-- The bit SHR shifts out: bit 0 (R83). -/
def lowBit (a : Byte) : Bool := a.getLsbD 0

/-- The bit SHL shifts out: bit 7 (R85). -/
def highBit (a : Byte) : Bool := a.getLsbD 7

/-- ADD I,Vx: the exact sum exceeds 0xFFF, compared before the 16-bit wrap (R88, D18). -/
def indexOverflow (i : Word) (b : Byte) : Bool := i.toNat + b.toNat > 0xFFF

end Sys2Proof.Machine
end

