-- ==== Sys2Proof/Machine/Operands.lean ====
section
/-!
DEFINITION. Machine/Operands.lean: every operand form of spec/30_encoding.md rule R51 beyond the plain register and byte:
zero extension, the key a register names, the memory block at I, the font glyph address and the BCD digits.
-/

namespace Sys2Proof.Machine

/-- `zext_16(nnn)`: a 12-bit address as a 16-bit value (R51). -/
def zextAddress (nnn : Imm12) : Word := nnn.setWidth 16

/-- `zext_16(b)`: a byte as a 16-bit value (R8). -/
def zextByte (b : Byte) : Word := b.setWidth 16

/-- The key a register value names: its low four bits (R107, D7). -/
def keyNamed (b : Byte) : Digit := ⟨b.toNat % 16, Nat.mod_lt _ (by decide)⟩

/-- Whether key `k` is pressed (R22). -/
def State.keyPressed (s : State) (k : Digit) : Bool := s.key.get k

/-- The least pressed key, if any is pressed (R103). -/
def State.lowestKey (s : State) : Option Digit := (List.finRange 16).find? (fun k => s.keyPressed k)

/-- The one addressing mode: I plus a small constant, unreduced; `memRead` and `memWrite` reduce it mod 4096 (R93). -/
def State.indexed (s : State) (k : Nat) : Nat := s.i.toNat + k

/-- `V[x] * 5`, not masked to a digit (R89, D19). -/
def glyphAddress (b : Byte) : Word := BitVec.ofNat 16 (b.toNat * Config.glyphBytes)

/-- The hundreds digit of a byte, 0..2 (R90). -/
def hundreds (b : Byte) : Byte := BitVec.ofNat 8 (b.toNat / 100)

/-- The tens digit of a byte, 0..9 (R90). -/
def tens (b : Byte) : Byte := BitVec.ofNat 8 (b.toNat / 10 % 10)

/-- The ones digit of a byte, 0..9 (R90). -/
def ones (b : Byte) : Byte := BitVec.ofNat 8 (b.toNat % 10)

/-- The registers V[0..x], ascending, x included (R91). -/
def regsUpTo (x : Reg) : List Reg := (List.finRange 16).filter (fun r => r ≤ x)

end Sys2Proof.Machine
end

