-- ==== Sys2Proof/Machine/Alu.lean ====
section
/-!
DEFINITION. Machine/Alu.lean: register load, arithmetic, logic, shift and random instructions (spec/41_alu.md rules R75 to R86).

Operands are read from the state before the instruction; the result is written, then the flag (rule R13).
-/

namespace Sys2Proof.Machine

/-- Write a result to V[x], then the flag to VF, then advance: the shared end of the flag-setting instructions (R13, R74). -/
def State.resultThenFlag (s : State) (x : Reg) (result : Byte) (f : Bool) : Host.Outcome State Fault Refusal :=
  ((s.setV x result).setFlag f).sequential

/-- LD Vx,nn (R75). -/
def execLdImm (x : Reg) (nn : Byte) (s : State) : Host.Outcome State Fault Refusal := (s.setV x nn).sequential

/-- ADD Vx,nn: mod 256, VF is not written (R76). -/
def execAddImm (x : Reg) (nn : Byte) (s : State) : Host.Outcome State Fault Refusal :=
  (s.setV x (s.getV x + nn)).sequential

/-- LD Vx,Vy (R77). -/
def execLdReg (x y : Reg) (s : State) : Host.Outcome State Fault Refusal := (s.setV x (s.getV y)).sequential

/-- OR Vx,Vy: VF is not touched (R78). -/
def execOrReg (x y : Reg) (s : State) : Host.Outcome State Fault Refusal :=
  (s.setV x (s.getV x ||| s.getV y)).sequential

/-- AND Vx,Vy: VF is not touched (R79). -/
def execAndReg (x y : Reg) (s : State) : Host.Outcome State Fault Refusal :=
  (s.setV x (s.getV x &&& s.getV y)).sequential

/-- XOR Vx,Vy: VF is not touched (R80). -/
def execXorReg (x y : Reg) (s : State) : Host.Outcome State Fault Refusal :=
  (s.setV x (s.getV x ^^^ s.getV y)).sequential

/-- ADD Vx,Vy: sum mod 256, VF = carry (R81). -/
def execAddReg (x y : Reg) (s : State) : Host.Outcome State Fault Refusal :=
  s.resultThenFlag x (s.getV x + s.getV y) (carryOut (s.getV x) (s.getV y))

/-- SUB Vx,Vy: V[x] - V[y] mod 256, VF = no borrow (R82). -/
def execSubReg (x y : Reg) (s : State) : Host.Outcome State Fault Refusal :=
  s.resultThenFlag x (s.getV x - s.getV y) (noBorrow (s.getV x) (s.getV y))

/-- SHR Vx: V[x] shifted right by one, VF = old bit 0; V[y] plays no part (R83). -/
def execShr (x : Reg) (s : State) : Host.Outcome State Fault Refusal :=
  s.resultThenFlag x (s.getV x >>> 1) (lowBit (s.getV x))

/-- SUBN Vx,Vy: V[y] - V[x] mod 256 into V[x], VF = no borrow (R84). -/
def execSubnReg (x y : Reg) (s : State) : Host.Outcome State Fault Refusal :=
  s.resultThenFlag x (s.getV y - s.getV x) (noBorrow (s.getV y) (s.getV x))

/-- SHL Vx: V[x] shifted left by one mod 256, VF = old bit 7; V[y] plays no part (R85). -/
def execShl (x : Reg) (s : State) : Host.Outcome State Fault Refusal :=
  s.resultThenFlag x (s.getV x <<< 1) (highBit (s.getV x))

/-- RND Vx,nn: a fresh draw masked with nn (R86, D8; assumption 3). -/
def execRnd (x : Reg) (nn : Byte) (s : State) : Host.Outcome State Fault Refusal :=
  (s.drawn.setV x (s.draw &&& nn)).sequential

end Sys2Proof.Machine
end

