-- ==== Sys2Proof/Machine/Display.lean ====
section
/-!
DEFINITION. Machine/Display.lean: the display and the sprite engine (spec/43_display.md rules R94 to R96).
-/

namespace Sys2Proof.Machine

/-- The pixel at column px mod 64, row py mod 32 (R94, D3). -/
def pixelAt (pix : Vector PixelRow 32) (px py : Nat) : Bool :=
  (pix.get ⟨py % 32, Nat.mod_lt _ (by decide)⟩).getLsbD (px % 64)

/-- `PIX[k]`: pixel k is column k mod 64 of row k / 64 (R23). -/
def State.pixel (s : State) (k : Nat) : Bool := pixelAt s.pix (k % 64) (k / 64)

/-- XOR the pixel at column px mod 64, row py mod 32 with 1 (R96). -/
def flipPixel (pix : Vector PixelRow 32) (px py : Nat) : Vector PixelRow 32 :=
  pix.set (py % 32) (pix.get ⟨py % 32, Nat.mod_lt _ (by decide)⟩ ^^^ BitVec.twoPow 64 (px % 64)) (Nat.mod_lt _ (by decide))

/-- What a drawing in progress has written: the display, whether a pixel that was on was hit (VF), and whether any pixel was
toggled (RP). -/
structure Canvas where
  pix : Vector PixelRow 32
  hit : Bool
  toggled : Bool
deriving DecidableEq, Repr

/-- One set sprite bit at a target: note a collision, XOR the pixel, note the toggle (R96). -/
def Canvas.plot (c : Canvas) (px py : Nat) : Canvas :=
  { pix := flipPixel c.pix px py, hit := c.hit || pixelAt c.pix px py, toggled := true }

/-- Bit `col` of a sprite row counted from the left: column 0 is bit 7 (R96). -/
def spriteBit (b : Byte) (col : Nat) : Bool := b.getLsbD (7 - col)

/-- One sprite row: columns 0 to 7 ascending, only set bits drawn (R96). -/
def Canvas.drawRow (c : Canvas) (vx y : Nat) (b : Byte) : Canvas :=
  (List.range 8).foldl (fun d col => if spriteBit b col then d.plot (vx + col) y else d) c

/-- The sprite: rows 0 to n-1 ascending, row r read at I + r (R96). -/
def State.drawSprite (s : State) (vx vy n : Nat) : Canvas :=
  (List.range n).foldl (fun c row => c.drawRow vx (vy + row) (s.memRead (s.indexed row))) ⟨s.pix, false, false⟩

/-- CLS: every pixel off, RP set always, `changed` = 1 (R95, R100). -/
def execCls (s : State) : Host.Outcome State Fault Refusal :=
  { s with pix := Vector.replicate 32 0, rp := true }.advance.finish true

/-- DRW Vx,Vy,n: the coordinates are read before VF is written; VF = collision, also when n = 0; RP is set and `changed` is 1
exactly when a pixel was toggled (R96, R100, C2). -/
def execDrw (x y : Reg) (n : Digit) (s : State) : Host.Outcome State Fault Refusal :=
  let c := s.drawSprite (s.getV x).toNat (s.getV y).toNat n.val
  ({ s with pix := c.pix, rp := s.rp || c.toggled }.setFlag c.hit).advance.finish c.toggled

end Sys2Proof.Machine
end

