-- ==== Sys2Proof/Machine/Flow.lean ====
section
/-!
DEFINITION. Machine/Flow.lean: the control-flow instructions (spec/40_step_and_flow.md rules R64 to R72).
-/

namespace Sys2Proof.Machine

/-- SYS: a no-op that advances PC (R64). -/
def execSys (s : State) : Host.Outcome State Fault Refusal := s.sequential

/-- RET: StackUnderflow at SP = 0; else SP - 1, and PC is the entry there plus 2. The entry is not cleared (R65, R116). -/
def execRet (s : State) : Host.Outcome State Fault Refusal :=
  if h : s.sp.val = 0 then s.raise .stackUnderflow
  else
    let top : Fin 16 := ⟨s.sp.val - 1, by have := s.sp.isLt; omega⟩
    ((s.setSp top.castSucc).setPc (s.stk.get top + 2)).finish false

/-- JP nnn: PC is nnn, with no increment (R66). -/
def execJp (nnn : Imm12) (s : State) : Host.Outcome State Fault Refusal := (s.setPc (zextAddress nnn)).finish false

/-- CALL nnn: StackOverflow at SP = 16; else push the address of this CALL, SP + 1, PC is nnn (R67, R115). -/
def execCall (nnn : Imm12) (s : State) : Host.Outcome State Fault Refusal :=
  if h : s.sp.val < 16 then
    let free : Fin 16 := ⟨s.sp.val, h⟩
    (((s.setStk free s.pc).setSp free.succ).setPc (zextAddress nnn)).finish false
  else s.raise .stackOverflow

/-- SE Vx,nn: skip if V[x] = nn (R68). -/
def execSeImm (x : Reg) (nn : Byte) (s : State) : Host.Outcome State Fault Refusal :=
  (s.skipIf (s.getV x == nn)).finish false

/-- SNE Vx,nn: skip if V[x] ≠ nn (R69). -/
def execSneImm (x : Reg) (nn : Byte) (s : State) : Host.Outcome State Fault Refusal :=
  (s.skipIf (s.getV x != nn)).finish false

/-- SE Vx,Vy: skip if V[x] = V[y] (R70). -/
def execSeReg (x y : Reg) (s : State) : Host.Outcome State Fault Refusal :=
  (s.skipIf (s.getV x == s.getV y)).finish false

/-- SNE Vx,Vy: skip if V[x] ≠ V[y] (R71). -/
def execSneReg (x y : Reg) (s : State) : Host.Outcome State Fault Refusal :=
  (s.skipIf (s.getV x != s.getV y)).finish false

/-- JP V0,nnn: PC is nnn + V0, 16 bits, not reduced mod 4096 (R72). -/
def execJpV0 (nnn : Imm12) (s : State) : Host.Outcome State Fault Refusal :=
  (s.setPc (zextAddress nnn + zextByte (s.getV 0))).finish false

end Sys2Proof.Machine
end

