-- ==== Sys2Proof/Machine/Index.lean ====
section
/-!
DEFINITION. Machine/Index.lean: the index-register and memory instructions (spec/42_index_memory.md rules R87 to R92).
-/

namespace Sys2Proof.Machine

/-- LD I,nnn (R87). -/
def execLdI (nnn : Imm12) (s : State) : Host.Outcome State Fault Refusal := (s.setI (zextAddress nnn)).sequential

/-- ADD I,Vx: I + V[x] mod 65536, VF = exact sum above 0xFFF, written last (R88). -/
def execAddIVx (x : Reg) (s : State) : Host.Outcome State Fault Refusal :=
  ((s.setI (s.i + zextByte (s.getV x))).setFlag (indexOverflow s.i (s.getV x))).sequential

/-- LD F,Vx: I is 5·V[x] (R89). -/
def execLdFVx (x : Reg) (s : State) : Host.Outcome State Fault Refusal := (s.setI (glyphAddress (s.getV x))).sequential

/-- LD B,Vx: the three decimal digits of V[x] at I, I+1, I+2, in that order; I is unchanged (R90). -/
def execLdBVx (x : Reg) (s : State) : Host.Outcome State Fault Refusal :=
  (((s.memWrite (s.indexed 0) (hundreds (s.getV x))).memWrite (s.indexed 1) (tens (s.getV x))).memWrite
    (s.indexed 2) (ones (s.getV x))).sequential

/-- Store register k at I + k, for each register of a list in its order (R91). -/
def State.storeRegs (s : State) (rs : List Reg) : State :=
  rs.foldl (fun t k => t.memWrite (s.indexed k.val) (s.getV k)) s

/-- Load register k from I + k, for each register of a list in its order (R92). -/
def State.loadRegs (s : State) (rs : List Reg) : State :=
  rs.foldl (fun t k => t.setV k (s.memRead (s.indexed k.val))) s

/-- I + x + 1 mod 65536: where I stands after a block (R91, R92). -/
def State.pastBlock (s : State) (x : Reg) : Word := s.i + BitVec.ofNat 16 (x.val + 1)

/-- LD [I],Vx: store V[0..x] from I on, then I + x + 1 (R91). -/
def execLdMemVx (x : Reg) (s : State) : Host.Outcome State Fault Refusal :=
  ((s.storeRegs (regsUpTo x)).setI (s.pastBlock x)).sequential

/-- LD Vx,[I]: load V[0..x] from I on, then I + x + 1; VF is loaded as data where x = 0xF (R92). -/
def execLdVxMem (x : Reg) (s : State) : Host.Outcome State Fault Refusal :=
  ((s.loadRegs (regsUpTo x)).setI (s.pastBlock x)).sequential

end Sys2Proof.Machine
end

