-- ==== Sys2Proof/Machine/KeysTimers.lean ====
section
/-!
DEFINITION. Machine/KeysTimers.lean: the key and timer instructions (spec/44_keys_timers.md rules R101 to R107).
-/

namespace Sys2Proof.Machine

/-- SKP Vx: skip if the key V[x] mod 16 is pressed (R101, R107). -/
def execSkp (x : Reg) (s : State) : Host.Outcome State Fault Refusal :=
  (s.skipIf (s.keyPressed (keyNamed (s.getV x)))).finish false

/-- SKNP Vx: skip if the key V[x] mod 16 is not pressed (R102, R107). -/
def execSknp (x : Reg) (s : State) : Host.Outcome State Fault Refusal :=
  (s.skipIf (!s.keyPressed (keyNamed (s.getV x)))).finish false

/-- LD Vx,K: the least pressed key into V[x] and PC + 2; with no key pressed nothing changes, PC included, and the status is OK:
the next step executes the same instruction again (R103). -/
def execLdVxK (x : Reg) (s : State) : Host.Outcome State Fault Refusal :=
  match s.lowestKey with
  | some k => (s.setV x (BitVec.ofNat 8 k.val)).sequential
  | none => s.finish false

/-- LD Vx,DT (R104). -/
def execLdVxDT (x : Reg) (s : State) : Host.Outcome State Fault Refusal := (s.setV x s.dt).sequential

/-- LD DT,Vx (R105). -/
def execLdDTVx (x : Reg) (s : State) : Host.Outcome State Fault Refusal := (s.setDt (s.getV x)).sequential

/-- LD ST,Vx: no tone request comes from the step itself (R106). -/
def execLdSTVx (x : Reg) (s : State) : Host.Outcome State Fault Refusal := (s.setSt (s.getV x)).sequential

end Sys2Proof.Machine
end

