-- ==== Sys2Proof/Machine/Step.lean ====
section
/-!
DEFINITION. Machine/Step.lean: one `step` of the core (spec/40_step_and_flow.md rule R61), and the placing of a word where it
fetches.
-/

namespace Sys2Proof.Machine

/-- Fetch, decode, execute (R61). A word that matches no row raises UnknownOpcode and changes no state (R114). -/
def step (s : State) : Host.Outcome State Fault Refusal :=
  match decodeWord s.fetch with
  | .ok i => exec i s
  | .error _ => s.raise .unknownOpcode

/-- `s` with the instruction whose low `nbits` bits are `w` (the bits above are 0) in the two bytes `step` fetches next: its high
byte at PC, its low byte at PC + 1 (R34). It stands for the host's `loadProgram` (assumption 7). -/
def State.withFetchWord (s : State) (nbits w : Nat) : State :=
  (s.memWrite s.pc.toNat (BitVec.ofNat 8 (w % 2 ^ nbits / 256))).memWrite (s.pc.toNat + 1)
    (BitVec.ofNat 8 (w % 2 ^ nbits % 256))

end Sys2Proof.Machine
end

