-- ==== Sys2Proof/Machine/Transactions.lean ====
section
/-!
DEFINITION. Machine/Transactions.lean: the seven atomic transactions by which the host drives the core (spec/00_scope.md rule
R9): reset, loadProgram, step, tick, setKey, clearRedraw, readDisplay, each with its result.
-/

namespace Sys2Proof.Machine

/-- The one way `loadProgram` fails (R117). -/
inductive LoadError where
  /-- The image is longer than 3584 bytes. -/
  | romTooLarge
deriving DecidableEq, Repr

/-- `reset`: every field of the machine at its value after reset, the FONT of this core installed (R129). The count of draws goes
on, so that the draws after a reset are fresh ones (assumption 3). -/
def State.hostReset (s : State) : State := { State.resetWith s.font with draws := s.draws }

/-- Copy bytes to consecutive addresses, ascending (R131). -/
def State.storeBytes (s : State) : Nat → List Byte → State
  | _, [] => s
  | a, b :: bs => (s.memWrite a b).storeBytes (a + 1) bs

/-- `loadProgram(bytes)`: RomTooLarge, with nothing copied, above 3584 bytes; else the bytes verbatim from 0x200 on, and nothing
else changes (R117, R131, R132). -/
def State.loadProgram (s : State) (image : List Byte) : Except LoadError State :=
  if image.length > Config.maxRom then .error .romTooLarge else .ok (s.storeBytes Config.progBase image)

/-- A timer's count after a tick: one less while nonzero (R108). -/
def countDown (b : Byte) : Byte := if b = 0 then 0 else b - 1

/-- `tick`: both timers count down; the result is the tone request, 1 exactly when ST was 1 before the decrement (R108, R109). -/
def State.tick (s : State) : State × Bool := ({ s with dt := countDown s.dt, st := countDown s.st }, s.st == 1)

/-- `setKey(i, pressed)` (R110). -/
def State.setKey (s : State) (k : Digit) (pressed : Bool) : State := { s with key := s.key.set k.val pressed k.isLt }

/-- `clearRedraw`: RP is 0 (R99). -/
def State.clearRedraw (s : State) : State := { s with rp := false }

/-- `displayChanged()`: the current value of RP (R100). -/
def State.displayChanged (s : State) : Bool := s.rp

/-- `readDisplay`: the bitmap, row by row; reading changes nothing (R98). -/
def State.readDisplay (s : State) : Vector PixelRow 32 := s.pix

/-- What the host can ask of the core (R9). -/
inductive Transaction where
  /-- Controlled initialisation (R129). -/
  | reset
  /-- Copy a program image to 0x200 (R131). -/
  | loadProgram (image : List Byte)
  /-- Execute one instruction (R61). -/
  | step
  /-- Decrement the timers (R108). -/
  | tick
  /-- Set one bit of the key latch (R110). -/
  | setKey (k : Digit) (pressed : Bool)
  /-- Clear RP (R99). -/
  | clearRedraw
  /-- Read the bitmap (R98). -/
  | readDisplay
deriving DecidableEq, Repr

/-- What a transaction returns to the host. -/
inductive Response where
  /-- A transaction without a result. -/
  | done
  /-- `loadProgram` refused the image (R117). -/
  | romTooLarge
  /-- The status and the `changed` result of a step (R61, R100, R112). -/
  | stepped (status : Status) (changed : Bool)
  /-- The tone request of a tick (R109). -/
  | ticked (toneReq : Bool)
  /-- The bitmap (R98). -/
  | display (pix : Vector PixelRow 32)
deriving DecidableEq, Repr

/-- One transaction. Only a step could stop the model, and none does (R118). -/
def transact (s : State) : Transaction → Host.Outcome (State × Response) Fault Refusal
  | .reset => .next (s.hostReset, .done)
  | .loadProgram image =>
    match s.loadProgram image with
    | .ok t => .next (t, .done)
    | .error .romTooLarge => .next (s, .romTooLarge)
  | .step =>
    match Sys2Proof.Machine.step s with
    | .next t => .next (t, .stepped t.status t.changed)
    | .fault f => .fault f
    | .refused r => .refused r
  | .tick => .next (s.tick.1, .ticked s.tick.2)
  | .setKey k pressed => .next (s.setKey k pressed, .done)
  | .clearRedraw => .next (s.clearRedraw, .done)
  | .readDisplay => .next (s, .display s.readDisplay)

/-- A run: transactions one after the other, each on the state the one before left, with all responses in order (R9, R111). -/
def runTransactions (s : State) : List Transaction → Host.Outcome (State × List Response) Fault Refusal
  | [] => .next (s, [])
  | t :: ts =>
    match transact s t with
    | .next (u, r) =>
      match runTransactions u ts with
      | .next (final, rs) => .next (final, r :: rs)
      | .fault f => .fault f
      | .refused e => .refused e
    | .fault f => .fault f
    | .refused e => .refused e

/-- A step and a tick requested together: the step, then the tick (R111, D11). -/
def stepAndTick (s : State) : Host.Outcome (State × List Response) Fault Refusal := runTransactions s [.step, .tick]

/-- The boot sequence up to the first step: reset, then the program image (R133). -/
def boot (s : State) (image : List Byte) : Host.Outcome (State × List Response) Fault Refusal :=
  runTransactions s [.reset, .loadProgram image]

end Sys2Proof.Machine
end

