-- ==== Sys2Proof/Safety.lean ====
section
/-!
DEFINITION. Safety.lean: the terms the statements use: the invariant, a safe step, a stalled and a finished state, what a step
leaves unchanged, and the columns of the spec's own tables over all instructions.
-/

namespace Sys2Proof.Machine

/-! ## Invariant, safe, stalled, finished -/

/-- The model's invariant: memory is in its canonical form. Every other part of the state is legal by its type (SP is 0..16,
R27). -/
abbrev State.Inv (s : State) : Prop := Memory.wf s.font s.mem

/-- A safe step: it ends with status OK (R112). -/
def State.StepsSafely (s : State) : Prop := ∃ t, step s = .next t ∧ t.status = .ok

/-- Stalled on an error: the step reports it and changes nothing of the machine (R113). A stalled state is never a finished one
(D22). -/
def State.StalledOn (s : State) (e : Status) : Prop := e ≠ .ok ∧ step s = s.raise e

/-- Finished by the convention of R135: the word at PC is a JP to PC. The hardware gives no signal for it. -/
def State.Finished (s : State) : Prop := ∃ nnn, decodeWord s.fetch = .ok (.jp nnn) ∧ zextAddress nnn = s.pc

/-! ## What is left unchanged -/

/-- Every register is as before. -/
def SameRegs (s t : State) : Prop := ∀ r, t.getV r = s.getV r

/-- Every register but V[x] is as before. -/
def SameRegsBut (x : Reg) (s t : State) : Prop := ∀ r, r ≠ x → t.getV r = s.getV r

/-- Every register but V[x] and VF is as before. -/
def SameRegsButFlag (x : Reg) (s t : State) : Prop := ∀ r, r ≠ x → r ≠ VF → t.getV r = s.getV r

/-- Every byte of memory reads as before. -/
def SameMemory (s t : State) : Prop := ∀ a, t.memRead a = s.memRead a

/-- The call stack and SP are as before. -/
def SameStack (s t : State) : Prop := t.sp = s.sp ∧ ∀ k, t.stk.get k = s.stk.get k

/-- Every pixel and RP are as before. -/
def SameDisplay (s t : State) : Prop := (∀ k, k < 2048 → t.pixel k = s.pixel k) ∧ t.rp = s.rp

/-- Every key is as before. -/
def SameKeys (s t : State) : Prop := ∀ k, t.keyPressed k = s.keyPressed k

/-- Both timers are as before. -/
def SameTimers (s t : State) : Prop := t.dt = s.dt ∧ t.st = s.st

/-- The stack, the display, the keys, the timers and the count of draws are as before. -/
def SameDevices (s t : State) : Prop :=
  SameStack s t ∧ SameDisplay s t ∧ SameKeys s t ∧ SameTimers s t ∧ t.draws = s.draws

/-- Nothing of the machine but registers and PC changed: I, memory, stack, display, keys, timers and draws are as before. -/
def SameButRegsPc (s t : State) : Prop := t.i = s.i ∧ SameMemory s t ∧ SameDevices s t

/-- The whole machine of R11, field by field as a program and a host can see it, is as before. -/
def SameMachine (s t : State) : Prop := t.pc = s.pc ∧ SameRegs s t ∧ SameButRegsPc s t

/-- The step ended with status OK and without a change of the display (R61, R100). -/
def EndedOk (t : State) : Prop := t.status = .ok ∧ t.changed = false

/-! ## Reset and launch -/

/-- The table of R29 on a core with this FONT, with a program image from 0x200 on (R18, R133); with the empty image it is the
table of R29 itself. -/
def LaunchState (font : Font) (image : List Byte) (t : State) : Prop :=
  (∀ r, t.getV r = 0) ∧ t.i = 0 ∧ t.pc = 0x0200 ∧
  (∀ k : Fin 80, t.memRead k.val = font.get k) ∧ (∀ a, 0x050 ≤ a → a < 0x200 → t.memRead a = 0) ∧
  (∀ k (h : k < image.length), t.memRead (0x200 + k) = image[k]) ∧
  (∀ a, 0x200 + image.length ≤ a → a < 4096 → t.memRead a = 0) ∧
  (∀ k, t.stk.get k = 0) ∧ t.sp = 0 ∧ (∀ k, t.keyPressed k = false) ∧ (∀ k, k < 2048 → t.pixel k = false) ∧
  t.dt = 0 ∧ t.st = 0 ∧ t.rp = false

/-! ## The sprite -/

/-- The sprite of n rows at I, drawn at (vx, vy), covers the pixel (px, py): one of its set bits has that target, coordinates taken
mod 64 and mod 32 (R96). -/
def State.spriteCovers (s : State) (vx vy n px py : Nat) : Prop :=
  ∃ row col, row < n ∧ col < 8 ∧ spriteBit (s.memRead (s.indexed row)) col = true ∧ px % 64 = (vx + col) % 64 ∧
    py % 32 = (vy + row) % 32

/-! ## The spec's tables over all instructions -/

/-- The "reads" column of R14: the registers an instruction reads. -/
def readsReg : Instr → Reg → Prop
  | .seImm x _, r | .sneImm x _, r | .addImm x _, r | .shr x, r | .shl x, r | .skp x, r | .sknp x, r | .ldDTVx x, r
  | .ldSTVx x, r | .addIVx x, r | .ldFVx x, r | .ldBVx x, r => r = x
  | .ldReg _ y, r => r = y
  | .seReg x y, r | .sneReg x y, r | .orReg x y, r | .andReg x y, r | .xorReg x y, r | .addReg x y, r | .subReg x y, r
  | .subnReg x y, r | .drw x y _, r => r = x ∨ r = y
  | .jpV0 _, r => r = 0
  | .ldMemVx x, r => r ≤ x
  | .cls, _ | .ret, _ | .sys, _ | .jp _, _ | .call _, _ | .ldImm _ _, _ | .ldI _, _ | .rnd _ _, _ | .ldVxDT _, _ | .ldVxK _, _
  | .ldVxMem _, _ => False

/-- The "writes" column of R14: the registers an instruction may write, VF included where it is touched as the flag. -/
def writesReg : Instr → Reg → Prop
  | .ldImm x _, r | .addImm x _, r | .ldReg x _, r | .orReg x _, r | .andReg x _, r | .xorReg x _, r | .rnd x _, r | .ldVxDT x, r
  | .ldVxK x, r => r = x
  | .addReg x _, r | .subReg x _, r | .subnReg x _, r | .shr x, r | .shl x, r => r = x ∨ r = VF
  | .drw _ _ _, r | .addIVx _, r => r = VF
  | .ldVxMem x, r => r ≤ x
  | .cls, _ | .ret, _ | .sys, _ | .jp _, _ | .call _, _ | .seImm _ _, _ | .sneImm _ _, _ | .seReg _ _, _ | .sneReg _ _, _
  | .ldI _, _ | .jpV0 _, _ | .skp _, _ | .sknp _, _ | .ldDTVx _, _ | .ldSTVx _, _ | .ldFVx _, _ | .ldBVx _, _
  | .ldMemVx _, _ => False

/-- The instructions that define a flag (R13). -/
def definesFlag : Instr → Prop
  | .addReg _ _ | .subReg _ _ | .subnReg _ _ | .shr _ | .shl _ | .drw _ _ _ | .addIVx _ => True
  | .cls | .ret | .sys | .jp _ | .call _ | .seImm _ _ | .sneImm _ _ | .seReg _ _ | .ldImm _ _ | .addImm _ _ | .ldReg _ _
  | .orReg _ _ | .andReg _ _ | .xorReg _ _ | .sneReg _ _ | .ldI _ | .jpV0 _ | .rnd _ _ | .skp _ | .sknp _ | .ldVxDT _ | .ldVxK _
  | .ldDTVx _ | .ldSTVx _ | .ldFVx _ | .ldBVx _ | .ldMemVx _ | .ldVxMem _ => False

/-- PC after an instruction, class by class (R63); a raised error and a key wait leave PC unchanged. -/
def pcAfter (s : State) : Instr → Word
  | .cls | .sys | .ldImm _ _ | .addImm _ _ | .ldReg _ _ | .orReg _ _ | .andReg _ _ | .xorReg _ _ | .addReg _ _ | .subReg _ _
  | .shr _ | .subnReg _ _ | .shl _ | .ldI _ | .rnd _ _ | .drw _ _ _ | .ldVxDT _ | .ldDTVx _ | .ldSTVx _ | .addIVx _ | .ldFVx _
  | .ldBVx _ | .ldMemVx _ | .ldVxMem _ => s.pc + 2
  | .seImm x nn => if s.getV x = nn then s.pc + 4 else s.pc + 2
  | .sneImm x nn => if s.getV x ≠ nn then s.pc + 4 else s.pc + 2
  | .seReg x y => if s.getV x = s.getV y then s.pc + 4 else s.pc + 2
  | .sneReg x y => if s.getV x ≠ s.getV y then s.pc + 4 else s.pc + 2
  | .skp x => if s.keyPressed (keyNamed (s.getV x)) = true then s.pc + 4 else s.pc + 2
  | .sknp x => if s.keyPressed (keyNamed (s.getV x)) = false then s.pc + 4 else s.pc + 2
  | .jp nnn => zextAddress nnn
  | .jpV0 nnn => zextAddress nnn + zextByte (s.getV 0)
  | .call nnn => if s.sp = 16 then s.pc else zextAddress nnn
  | .ret => if h : s.sp.val = 0 then s.pc else s.stk.get ⟨s.sp.val - 1, by have := s.sp.isLt; omega⟩ + 2
  | .ldVxK _ => if ∃ k, s.keyPressed k = true then s.pc + 2 else s.pc

/-- The words of R53: no row of the dispatch table matches. -/
abbrev unknownWord (w : Word) : Prop :=
  (fieldOp w = 0x0 ∧ (fieldNN w).toNat ∉ [0x00, 0xE0, 0xEE]) ∨
  (fieldOp w = 0x8 ∧ (fieldN w).val ∈ [0x8, 0x9, 0xA, 0xB, 0xC, 0xD, 0xF]) ∨
  (fieldOp w = 0xE ∧ (fieldNN w).toNat ∉ [0x9E, 0xA1]) ∨
  (fieldOp w = 0xF ∧ (fieldNN w).toNat ∉ [0x07, 0x0A, 0x15, 0x18, 0x1E, 0x29, 0x33, 0x55, 0x65])

end Sys2Proof.Machine
end

