-- ==== Sys2Proof/Certificates/Slice0/Obligations.lean ====
section
/-!
DEFINITION. Certificates/Slice0/Obligations.lean: the statements for the provers, each from the rules of spec/ its docstring names.

The `status` and `changed` results of a step are read in the fields that hold them (assumption 2); a statement speaks of the
values the spec gives those results, never of their values at reset.
-/

open Sys2Proof Sys2Proof.Machine

/-! ## Encoding (spec/30_encoding.md) -/

/-- Decode and encode agree on every instruction at every value of every operand, as a word and as bytes with anything after them
(R48, R55, R58). -/
def Obligations.DecodeOfEncodeIsTheInstruction : Prop :=
  ∀ i : Instr, decodeWord (encode i) = .ok i ∧ ∀ rest, decodeBytes (encodeBytes i ++ rest) = .ok (i, rest)

/-- The other direction: a word that decodes differs from the encoding of what it decodes to only in digits its row does not
decode (R52, R58). -/
def Obligations.EncodeOfDecodeIsTheCanonicalWord : Prop :=
  ∀ w i, decodeWord w = .ok i → encode i = w &&& decodedDigits i

/-- The decoder against the table's masks (R47): a word that decodes to an instruction, under the mask of that instruction's row, is
the row's match; and a word that matches an instruction's row decodes to an instruction of that same row. So every word that matches
a row decodes, and none matches two rows. -/
def Obligations.DecodedWordsMatchTheirRow : Prop :=
  (∀ w i, decodeWord w = .ok i → w &&& rowMask i = rowMatch i) ∧
  ∀ w i, w &&& rowMask i = rowMatch i → ∃ j, decodeWord w = .ok j ∧ rowMask j = rowMask i ∧ rowMatch j = rowMatch i

/-- The words that decode to no instruction are exactly those R53 lists, and the refusal names the word. -/
def Obligations.UnknownWordsAreExactlyThoseListed : Prop :=
  ∀ w, (unknownWord w → decodeWord w = .error (.unknownOpcode w)) ∧ (¬ unknownWord w → ∃ i, decodeWord w = .ok i)

/-- A few words written out from the spec's encodings decode to what they stand for: the document's own four (R58), and the words
with a digit that is not decoded of R52. -/
def Obligations.SpecExampleWordsDecode : Prop :=
  decodeWord 0x6005 = .ok (.ldImm 0 5) ∧ decodeWord 0x7003 = .ok (.addImm 0 3) ∧ decodeWord 0xA250 = .ok (.ldI 0x250) ∧
  decodeWord 0xD005 = .ok (.drw 0 0 5) ∧ decodeWord 0x01E0 = .ok .cls ∧ decodeWord 0x0FEE = .ok .ret ∧
  decodeWord 0x0A00 = .ok .sys ∧ decodeWord 0x5121 = .ok (.seReg 1 2) ∧ decodeWord 0x8AB6 = .ok (.shr 0xA)

/-- The assembler: the line of an instruction assembles to its canonical word; the lines that assemble are the well-formed ones;
assembling what a word is printed as gives that word back exactly where the word is canonical (R56, R58, R60). -/
def Obligations.AssemblyRoundTripsOnCanonicalWords : Prop :=
  (∀ i : Instr, assemble i.line = some (encode i)) ∧ (∀ l : Line, (assemble l).isSome = l.wellFormed) ∧
  ∀ w i, decodeWord w = .ok i → ((disassemble w).assemble? = some w ↔ w &&& decodedDigits i = w)

/-! ## The step (spec/40_step_and_flow.md R61, spec/60_exceptions.md) -/

/-- A step runs the decoded instruction: when the two bytes at PC and PC + 1, big-endian, decode to an instruction, the step is
`exec` of it on that same state; nothing else happens around it (R34, R61). -/
def Obligations.StepRunsTheDecodedInstruction : Prop :=
  ∀ s i, decodeWord (BitVec.ofNat 16 ((s.memRead s.pc.toNat).toNat * 256 + (s.memRead (s.pc.toNat + 1)).toNat)) = .ok i →
    step s = exec i s

/-- The fetch: the byte at PC mod 4096 is the high byte, the byte at (PC + 1) mod 4096 the low byte, whatever PC is (R34, R36,
R39). -/
def Obligations.FetchIsBigEndianAndWrapsAtTheTop : Prop :=
  ∀ s : State, s.fetch.toNat = (s.memRead (s.pc.toNat % 4096)).toNat * 256 + (s.memRead ((s.pc.toNat + 1) % 4096)).toNat

/-- No instruction and no step stops the machine: each answers a next state, in every state, and the host's transaction `step` returns
that state with the status and the `changed` result of the step (R61). No ordinary condition is an error (R118). That a step which
raises one of the three errors is a next state too, its status in a field, is the model's choice (assumption 2), read from R113: such
a step returns its code, writes nothing, and the core can be asked for the next one. -/
def Obligations.EveryInstructionAndStepCompletes : Prop :=
  (∀ i s, ∃ t, exec i s = .next t) ∧
  ∀ s, ∃ t, step s = .next t ∧ transact s .step = .next (t, .stepped t.status t.changed)

/-- What `raise` does (R113): a step that ends with an error has written nothing, whichever error it is, and the next step, with
nothing changed in between, raises the same error and leaves the same state. -/
def Obligations.ErrorsArePreciseAndRecur : Prop :=
  ∀ s t, step s = .next t → t.status ≠ .ok →
    t = { s with status := t.status, changed := false } ∧ step t = .next t

/-- Each error has exactly its cause (R112, R120): UnknownOpcode the words of R53, StackOverflow CALL at SP = 16, StackUnderflow RET
at SP = 0. -/
def Obligations.ErrorsHaveExactlyTheirCauses : Prop :=
  ∀ s t, step s = .next t →
    (t.status = .unknownOpcode ↔ unknownWord s.fetch) ∧
    (t.status = .stackOverflow ↔ s.sp = 16 ∧ ∃ nnn, decodeWord s.fetch = .ok (.call nnn)) ∧
    (t.status = .stackUnderflow ↔ s.sp = 0 ∧ decodeWord s.fetch = .ok .ret)

/-- A stall is permanent (R113 to R116): whatever the host asks, short of `reset` and `loadProgram`, the core stays stalled on the
same error at the same PC, with the same registers, memory and stack, and every step in between reports that error. -/
def Obligations.StallOutlivesEverythingButResetAndLoad : Prop :=
  ∀ s e, s.StalledOn e → ∀ ts : List Transaction, .reset ∉ ts → (∀ image, .loadProgram image ∉ ts) →
    ∃ u rs, runTransactions s ts = .next (u, rs) ∧ u.StalledOn e ∧ u.pc = s.pc ∧ SameRegs s u ∧ SameMemory s u ∧
      SameStack s u ∧ ∀ st ch, .stepped st ch ∈ rs → st = e ∧ ch = false

/-- The `changed` result (R100 b): 1 exactly when the step executed CLS, or a DRW that left some pixel different; 1 implies RP = 1
after the step, and 0 leaves RP as it was. -/
def Obligations.ChangedReportsADisplayChange : Prop :=
  ∀ s t, step s = .next t →
    (t.changed = true ↔ decodeWord s.fetch = .ok .cls ∨
      (∃ x y n, decodeWord s.fetch = .ok (.drw x y n)) ∧ ∃ k, k < 2048 ∧ t.pixel k ≠ s.pixel k) ∧
    (t.changed = true → t.rp = true) ∧ (t.changed = false → t.rp = s.rp)

/-- A finished program (R135): a step at a JP to itself changes nothing, and such a state is not a stalled one. -/
def Obligations.FinishedStateStaysAsItIs : Prop :=
  ∀ s : State, s.Finished → step s = .next { s with status := .ok, changed := false } ∧ ∀ e, ¬ s.StalledOn e

/-! ## Invariants -/

/-- The state after reset meets the invariant, with the default FONT and with every other one. -/
def Obligations.ResetMeetsTheInvariant : Prop := State.reset.Inv ∧ ∀ font, (State.resetWith font).Inv

/-- Every step keeps memory in its canonical form: addresses below 4096, strictly rising, no entry equal to what it reads as when
unlisted; so equal memories are equal data. -/
def Obligations.EveryStepKeepsMemoryCanonical : Prop :=
  ∀ s t : State, s.Inv → step s = .next t → t.Inv

/-- Every transaction of the host keeps it, a program load included. -/
def Obligations.EveryTransactionKeepsMemoryCanonical : Prop :=
  ∀ (s : State) (a : Transaction) (u : State) (r : Response), s.Inv → transact s a = .next (u, r) → u.Inv

/-! ## Whole-machine rules -/

/-- How PC advances, for all instructions at once (R63): +2, or +4 for a taken skip, or the target, or the popped address + 2, or
unchanged for a key wait and for an error. -/
def Obligations.PcAdvancesByClass : Prop :=
  (∀ i s t, exec i s = .next t → t.pc = pcAfter s i) ∧ ∀ s t, unknownWord s.fetch → step s = .next t → t.pc = s.pc

/-- The "writes" column of R14: an instruction leaves every register outside its column as it was. -/
def Obligations.RegistersOutsideTheWritesColumnAreUnchanged : Prop :=
  ∀ i s t r, exec i s = .next t → ¬ writesReg i r → t.getV r = s.getV r

/-- The "reads" column of R14: the old value of a register an instruction does not read has no influence. If it does not write that
register either, the value is carried through; if it writes it, the value is lost (LD Vx,K writes only when a key is pressed). The two
executions compared take the same draw: that RND takes its free byte at a count of draws is the model's choice (assumption 3), and
for RND this says nothing of two executions whose draws differ. -/
def Obligations.RegistersOutsideTheReadsColumnHaveNoInfluence : Prop :=
  ∀ i s t r b, exec i s = .next t → ¬ readsReg i r →
    (¬ writesReg i r → exec i (s.setV r b) = .next (t.setV r b)) ∧
    (writesReg i r → (∀ x, i = .ldVxK x → ∃ k, s.keyPressed k = true) → exec i (s.setV r b) = .next t)

/-- A flag is exactly 0 or 1 (R13), after every instruction that defines one. -/
def Obligations.FlagIsZeroOrOne : Prop :=
  ∀ i s, definesFlag i → ∃ t, exec i s = .next t ∧ (t.getV VF = 0 ∨ t.getV VF = 1)

/-- Memory is written by LD B,Vx and LD [I],Vx alone (R31, R40). -/
def Obligations.MemoryIsWrittenByTheTwoStoresAlone : Prop :=
  ∀ i s t, exec i s = .next t → (∀ x, i ≠ .ldBVx x) → (∀ x, i ≠ .ldMemVx x) → SameMemory s t

/-- Who writes the rest of the state: I five instructions (R15), the stack CALL and RET (R21), the keys none (R22), the display CLS
and DRW (R23), DT and ST their one load each (R24, R25); RP is never cleared (R26). That only RND takes a draw is the model's own
counter (assumption 3). -/
def Obligations.OtherStateIsWrittenByItsInstructionsAlone : Prop :=
  ∀ i s t, exec i s = .next t →
    ((∀ n, i ≠ .ldI n) → (∀ x, i ≠ .addIVx x) → (∀ x, i ≠ .ldFVx x) → (∀ x, i ≠ .ldMemVx x) → (∀ x, i ≠ .ldVxMem x) →
      t.i = s.i) ∧
    ((∀ n, i ≠ .call n) → i ≠ .ret → SameStack s t) ∧
    SameKeys s t ∧
    (i ≠ .cls → (∀ x y n, i ≠ .drw x y n) → SameDisplay s t) ∧
    ((∀ x, i ≠ .ldDTVx x) → t.dt = s.dt) ∧ ((∀ x, i ≠ .ldSTVx x) → t.st = s.st) ∧
    (s.rp = true → t.rp = true) ∧ ((∀ x nn, i ≠ .rnd x nn) → t.draws = s.draws)

/-- A tick before a step can change only what the step reads through LD Vx,DT (R111): for every step that moves no timer, ticking
first and stepping then gives the same state as stepping first and ticking then. The two orders compared take the same draw: that RND
takes its free byte at a count of draws is the model's choice (assumption 3), and where the step is an RND this says nothing of two
runs whose draws differ. LD Vx,DT, LD DT,Vx and LD ST,Vx move a timer: TimerMoves says what they do. -/
def Obligations.TickCommutesWithStepsThatMoveNoTimer : Prop :=
  ∀ s t, (∀ x, decodeWord s.fetch ≠ .ok (.ldVxDT x)) → (∀ x, decodeWord s.fetch ≠ .ok (.ldDTVx x)) →
    (∀ x, decodeWord s.fetch ≠ .ok (.ldSTVx x)) → step s = .next t → step s.tick.1 = .next t.tick.1

/-! ## Control flow (spec/40_step_and_flow.md) -/

/-- SYS (R64): PC + 2 and nothing else, whatever the digit x is. -/
def Obligations.SysOnlyAdvances : Prop :=
  (∀ d, decodeWord (wordXNN 0x0 d 0x00) = .ok .sys) ∧
  ∀ s, ∃ t, exec .sys s = .next t ∧ t.pc = s.pc + 2 ∧ SameRegs s t ∧ SameButRegsPc s t ∧ EndedOk t

/-- JP nnn (R66): PC is nnn, and the next fetch is at nnn, never at nnn + 2; any nnn is accepted; nothing else changes. -/
def Obligations.JpGoesToItsAddress : Prop :=
  (∀ nnn, decodeWord (wordNNN 0x1 nnn) = .ok (.jp nnn)) ∧
  ∀ s nnn, ∃ t, exec (.jp nnn) s = .next t ∧ t.pc.toNat = nnn.toNat ∧
    t.fetch = wordOfBytes (s.memRead nnn.toNat) (s.memRead (nnn.toNat + 1)) ∧ SameRegs s t ∧ SameButRegsPc s t ∧ EndedOk t

/-- JP V0,nnn (R72): PC is nnn + V0, never V[x], neither wrapped nor reduced mod 4096; the next fetch is at that sum mod 4096. -/
def Obligations.JpV0AddsRegisterZero : Prop :=
  (∀ nnn, decodeWord (wordNNN 0xB nnn) = .ok (.jpV0 nnn)) ∧
  ∀ s nnn, ∃ t, exec (.jpV0 nnn) s = .next t ∧ t.pc.toNat = nnn.toNat + (s.getV 0).toNat ∧
    t.fetch = wordOfBytes (s.memRead ((nnn.toNat + (s.getV 0).toNat) % 4096))
      (s.memRead ((nnn.toNat + (s.getV 0).toNat + 1) % 4096)) ∧ SameRegs s t ∧ SameButRegsPc s t ∧ EndedOk t

/-- CALL nnn (R67): below depth 16 it writes its own full PC to STK[SP], adds 1 to SP and goes to nnn, and nothing else changes; at
depth 16 it raises StackOverflow with nothing written, so the 16th frame is legal and the 17th is not (R115). -/
def Obligations.CallPushesItsOwnAddress : Prop :=
  (∀ nnn, decodeWord (wordNNN 0x2 nnn) = .ok (.call nnn)) ∧
  (∀ s nnn (h : s.sp.val < 16), ∃ t, exec (.call nnn) s = .next t ∧ t.stk.get ⟨s.sp.val, h⟩ = s.pc ∧
    (∀ k : Fin 16, k.val ≠ s.sp.val → t.stk.get k = s.stk.get k) ∧ t.sp.val = s.sp.val + 1 ∧ t.pc.toNat = nnn.toNat ∧
    SameRegs s t ∧ t.i = s.i ∧ SameMemory s t ∧ SameDisplay s t ∧ SameKeys s t ∧ SameTimers s t ∧ t.draws = s.draws ∧ EndedOk t) ∧
  ∀ s nnn, s.sp = 16 → ∃ t, exec (.call nnn) s = .next t ∧ SameMachine s t ∧ t.status = .stackOverflow ∧ t.changed = false

/-- RET (R65): with a frame in use it subtracts 1 from SP and goes to the popped entry + 2 mod 65536, the entry stays, and nothing
else changes; at SP = 0 it raises StackUnderflow with nothing written (R116). And the document's law: CALL then RET returns to
the CALL's address + 2. -/
def Obligations.RetReturnsPastTheCall : Prop :=
  (∀ d, decodeWord (wordXNN 0x0 d 0xEE) = .ok .ret) ∧
  (∀ s (h : 0 < s.sp.val), ∃ t, exec .ret s = .next t ∧ t.sp.val = s.sp.val - 1 ∧
    t.pc.toNat = ((s.stk.get ⟨s.sp.val - 1, by have := s.sp.isLt; omega⟩).toNat + 2) % 65536 ∧ (∀ k, t.stk.get k = s.stk.get k) ∧
    SameRegs s t ∧ t.i = s.i ∧ SameMemory s t ∧ SameDisplay s t ∧ SameKeys s t ∧ SameTimers s t ∧ t.draws = s.draws ∧ EndedOk t) ∧
  (∀ s, s.sp = 0 → ∃ t, exec .ret s = .next t ∧ SameMachine s t ∧ t.status = .stackUnderflow ∧ t.changed = false) ∧
  ∀ s nnn, s.sp.val < 16 → ∃ t u, exec (.call nnn) s = .next t ∧ exec .ret t = .next u ∧ u.pc = s.pc + 2 ∧ u.sp = s.sp

/-- The four register skips (R68 to R71): PC + 4 if the condition holds, else PC + 2, and nothing else changes; SE and SNE are exact
complements; n is not decoded in the two register forms. -/
def Obligations.RegisterSkipsTestTheirCondition : Prop :=
  (∀ x nn, decodeWord (wordXNN 0x3 x nn) = .ok (.seImm x nn) ∧ decodeWord (wordXNN 0x4 x nn) = .ok (.sneImm x nn)) ∧
  (∀ x y n, decodeWord (wordXYN 0x5 x y n) = .ok (.seReg x y) ∧ decodeWord (wordXYN 0x9 x y n) = .ok (.sneReg x y)) ∧
  (∀ s x nn, ∃ t, exec (.seImm x nn) s = .next t ∧ t.pc = (if s.getV x = nn then s.pc + 4 else s.pc + 2) ∧
    SameRegs s t ∧ SameButRegsPc s t ∧ EndedOk t) ∧
  (∀ s x nn, ∃ t, exec (.sneImm x nn) s = .next t ∧ t.pc = (if s.getV x = nn then s.pc + 2 else s.pc + 4) ∧
    SameRegs s t ∧ SameButRegsPc s t ∧ EndedOk t) ∧
  (∀ s x y, ∃ t, exec (.seReg x y) s = .next t ∧ t.pc = (if s.getV x = s.getV y then s.pc + 4 else s.pc + 2) ∧
    SameRegs s t ∧ SameButRegsPc s t ∧ EndedOk t) ∧
  ∀ s x y, ∃ t, exec (.sneReg x y) s = .next t ∧ t.pc = (if s.getV x = s.getV y then s.pc + 2 else s.pc + 4) ∧
    SameRegs s t ∧ SameButRegsPc s t ∧ EndedOk t

/-! ## Loads, arithmetic, logic, shifts, random (spec/41_alu.md) -/

/-- LD Vx,nn and ADD Vx,nn (R75, R76): the byte, or the sum mod 256, in V[x]; VF is not written unless it is V[x]; PC + 2 and nothing
else changes. -/
def Obligations.ImmediateLoadAndAdd : Prop :=
  (∀ x nn, decodeWord (wordXNN 0x6 x nn) = .ok (.ldImm x nn) ∧ decodeWord (wordXNN 0x7 x nn) = .ok (.addImm x nn)) ∧
  (∀ s x nn, ∃ t, exec (.ldImm x nn) s = .next t ∧ t.getV x = nn ∧ SameRegsBut x s t ∧ t.pc = s.pc + 2 ∧
    SameButRegsPc s t ∧ EndedOk t) ∧
  ∀ s x nn, ∃ t, exec (.addImm x nn) s = .next t ∧ (t.getV x).toNat = ((s.getV x).toNat + nn.toNat) % 256 ∧
    SameRegsBut x s t ∧ t.pc = s.pc + 2 ∧ SameButRegsPc s t ∧ EndedOk t

/-- LD Vx,Vy, OR, AND, XOR (R77 to R80): bit by bit in V[x]; VF is not touched unless it is V[x]; PC + 2 and nothing else changes. -/
def Obligations.RegisterMoveAndLogic : Prop :=
  (∀ x y, decodeWord (wordXYN 0x8 x y 0x0) = .ok (.ldReg x y) ∧ decodeWord (wordXYN 0x8 x y 0x1) = .ok (.orReg x y) ∧
    decodeWord (wordXYN 0x8 x y 0x2) = .ok (.andReg x y) ∧ decodeWord (wordXYN 0x8 x y 0x3) = .ok (.xorReg x y)) ∧
  (∀ s x y, ∃ t, exec (.ldReg x y) s = .next t ∧ t.getV x = s.getV y ∧ SameRegsBut x s t ∧ t.pc = s.pc + 2 ∧
    SameButRegsPc s t ∧ EndedOk t) ∧
  (∀ s x y, ∃ t, exec (.orReg x y) s = .next t ∧
    (∀ k, k < 8 → (t.getV x).getLsbD k = ((s.getV x).getLsbD k || (s.getV y).getLsbD k)) ∧ SameRegsBut x s t ∧
    t.pc = s.pc + 2 ∧ SameButRegsPc s t ∧ EndedOk t) ∧
  (∀ s x y, ∃ t, exec (.andReg x y) s = .next t ∧
    (∀ k, k < 8 → (t.getV x).getLsbD k = ((s.getV x).getLsbD k && (s.getV y).getLsbD k)) ∧ SameRegsBut x s t ∧
    t.pc = s.pc + 2 ∧ SameButRegsPc s t ∧ EndedOk t) ∧
  ∀ s x y, ∃ t, exec (.xorReg x y) s = .next t ∧
    (∀ k, k < 8 → (t.getV x).getLsbD k = ((s.getV x).getLsbD k != (s.getV y).getLsbD k)) ∧ SameRegsBut x s t ∧
    t.pc = s.pc + 2 ∧ SameButRegsPc s t ∧ EndedOk t

/-- ADD Vx,Vy (R81): the sum mod 256 in V[x], VF 1 if the sum of the old values exceeds 255, else 0; where V[x] is VF the flag wins. -/
def Obligations.AddSetsTheCarry : Prop :=
  (∀ x y, decodeWord (wordXYN 0x8 x y 0x4) = .ok (.addReg x y)) ∧
  ∀ s x y, ∃ t, exec (.addReg x y) s = .next t ∧
    (x ≠ VF → (t.getV x).toNat = ((s.getV x).toNat + (s.getV y).toNat) % 256) ∧
    t.getV VF = (if (s.getV x).toNat + (s.getV y).toNat > 255 then 1 else 0) ∧
    SameRegsButFlag x s t ∧ t.pc = s.pc + 2 ∧ SameButRegsPc s t ∧ EndedOk t

/-- SUB and SUBN (R82, R84): the difference mod 256 in V[x], VF 1 when the minuend is at least the subtrahend (equal operands
included), else 0; where V[x] is VF the flag wins. -/
def Obligations.SubtractionsSetNotBorrow : Prop :=
  (∀ x y, decodeWord (wordXYN 0x8 x y 0x5) = .ok (.subReg x y) ∧ decodeWord (wordXYN 0x8 x y 0x7) = .ok (.subnReg x y)) ∧
  (∀ s x y, ∃ t, exec (.subReg x y) s = .next t ∧
    (x ≠ VF → (t.getV x).toNat = ((s.getV x).toNat + 256 - (s.getV y).toNat) % 256) ∧
    t.getV VF = (if (s.getV x).toNat ≥ (s.getV y).toNat then 1 else 0) ∧
    SameRegsButFlag x s t ∧ t.pc = s.pc + 2 ∧ SameButRegsPc s t ∧ EndedOk t) ∧
  ∀ s x y, ∃ t, exec (.subnReg x y) s = .next t ∧
    (x ≠ VF → (t.getV x).toNat = ((s.getV y).toNat + 256 - (s.getV x).toNat) % 256) ∧
    t.getV VF = (if (s.getV y).toNat ≥ (s.getV x).toNat then 1 else 0) ∧
    SameRegsButFlag x s t ∧ t.pc = s.pc + 2 ∧ SameButRegsPc s t ∧ EndedOk t

/-- SHR and SHL (R83, R85): V[x] halved, or doubled mod 256, in place; VF is the bit shifted out, bit 0 or bit 7 of the old V[x]; the
digit y is not decoded and no other register plays a part. -/
def Obligations.ShiftsByOneSetTheBitShiftedOut : Prop :=
  (∀ x y, decodeWord (wordXYN 0x8 x y 0x6) = .ok (.shr x) ∧ decodeWord (wordXYN 0x8 x y 0xE) = .ok (.shl x)) ∧
  (∀ s x, ∃ t, exec (.shr x) s = .next t ∧ (x ≠ VF → (t.getV x).toNat = (s.getV x).toNat / 2) ∧
    (t.getV VF).toNat = (s.getV x).toNat % 2 ∧ SameRegsButFlag x s t ∧ t.pc = s.pc + 2 ∧ SameButRegsPc s t ∧ EndedOk t) ∧
  ∀ s x, ∃ t, exec (.shl x) s = .next t ∧ (x ≠ VF → (t.getV x).toNat = (s.getV x).toNat * 2 % 256) ∧
    (t.getV VF).toNat = (s.getV x).toNat / 128 ∧ SameRegsButFlag x s t ∧ t.pc = s.pc + 2 ∧ SameButRegsPc s t ∧ EndedOk t

/-- RND Vx,nn (R86): some byte masked with nn in V[x]: a bit where nn has 0 is 0, the result is at most nn; PC + 2 and nothing else
changes. Which byte is the model's free value at the count of draws taken, and the count goes up by one, so that the next RND
takes another draw (assumption 3). -/
def Obligations.RndMasksAFreshDraw : Prop :=
  (∀ x nn, decodeWord (wordXNN 0xC x nn) = .ok (.rnd x nn)) ∧
  ∀ s x nn, ∃ t, exec (.rnd x nn) s = .next t ∧
    (∀ k, k < 8 → (t.getV x).getLsbD k = ((Config.rnd s.draws).getLsbD k && nn.getLsbD k)) ∧ (t.getV x).toNat ≤ nn.toNat ∧
    t.draws = s.draws + 1 ∧ SameRegsBut x s t ∧ t.pc = s.pc + 2 ∧ t.i = s.i ∧ SameMemory s t ∧ SameStack s t ∧
    SameDisplay s t ∧ SameKeys s t ∧ SameTimers s t ∧ EndedOk t

/-! ## Index register and memory (spec/42_index_memory.md) -/

/-- LD I,nnn and LD F,Vx (R87, R89): I is nnn, or 5·V[x] for every V[x]; PC + 2 and nothing else changes. -/
def Obligations.IndexLoads : Prop :=
  (∀ nnn, decodeWord (wordNNN 0xA nnn) = .ok (.ldI nnn)) ∧ (∀ x, decodeWord (wordXNN 0xF x 0x29) = .ok (.ldFVx x)) ∧
  (∀ s nnn, ∃ t, exec (.ldI nnn) s = .next t ∧ t.i.toNat = nnn.toNat ∧ SameRegs s t ∧ t.pc = s.pc + 2 ∧ SameMemory s t ∧
    SameDevices s t ∧ EndedOk t) ∧
  ∀ s x, ∃ t, exec (.ldFVx x) s = .next t ∧ t.i.toNat = 5 * (s.getV x).toNat ∧ SameRegs s t ∧ t.pc = s.pc + 2 ∧
    SameMemory s t ∧ SameDevices s t ∧ EndedOk t

/-- ADD I,Vx (R88): I + V[x] mod 65536, not reduced to 12 bits; VF 1 if the true sum exceeds 0xFFF, else 0, compared before the wrap
and with the old VF as addend where x is VF. -/
def Obligations.AddIndexFlagsAboveTwelveBits : Prop :=
  (∀ x, decodeWord (wordXNN 0xF x 0x1E) = .ok (.addIVx x)) ∧
  ∀ s x, ∃ t, exec (.addIVx x) s = .next t ∧ t.i.toNat = (s.i.toNat + (s.getV x).toNat) % 65536 ∧
    t.getV VF = (if s.i.toNat + (s.getV x).toNat > 0xFFF then 1 else 0) ∧ SameRegsBut VF s t ∧ t.pc = s.pc + 2 ∧
    SameMemory s t ∧ SameDevices s t ∧ EndedOk t

/-- LD B,Vx (R90): the hundreds, tens and ones digits of V[x] at I, I + 1, I + 2, each address mod 4096; every other byte of memory,
I, the registers and everything else are unchanged. -/
def Obligations.BcdStoresThreeDigits : Prop :=
  (∀ x, decodeWord (wordXNN 0xF x 0x33) = .ok (.ldBVx x)) ∧
  ∀ s x, ∃ t, exec (.ldBVx x) s = .next t ∧ (t.memRead (s.indexed 0)).toNat = (s.getV x).toNat / 100 ∧
    (t.memRead (s.indexed 1)).toNat = (s.getV x).toNat / 10 % 10 ∧ (t.memRead (s.indexed 2)).toNat = (s.getV x).toNat % 10 ∧
    (∀ a, (∀ k, k < 3 → a % 4096 ≠ s.indexed k % 4096) → t.memRead a = s.memRead a) ∧ t.i = s.i ∧ SameRegs s t ∧
    t.pc = s.pc + 2 ∧ SameDevices s t ∧ EndedOk t

/-- LD [I],Vx (R91): register k at I + k mod 4096 for k = 0..x, x included; I advances by x + 1 mod 65536; every other byte of
memory, the registers and everything else are unchanged. -/
def Obligations.BlockStoreWritesEachRegister : Prop :=
  (∀ x, decodeWord (wordXNN 0xF x 0x55) = .ok (.ldMemVx x)) ∧
  ∀ s x, ∃ t, exec (.ldMemVx x) s = .next t ∧ (∀ k : Reg, k ≤ x → t.memRead (s.indexed k.val) = s.getV k) ∧
    (∀ a, (∀ k : Reg, k ≤ x → a % 4096 ≠ s.indexed k.val % 4096) → t.memRead a = s.memRead a) ∧
    t.i.toNat = (s.i.toNat + x.val + 1) % 65536 ∧ SameRegs s t ∧ t.pc = s.pc + 2 ∧ SameDevices s t ∧ EndedOk t

/-- LD Vx,[I] (R92): register k from I + k mod 4096 for k = 0..x, x included, VF among them where x = 0xF; I advances by x + 1 mod
65536; the other registers, memory and everything else are unchanged. -/
def Obligations.BlockLoadReadsEachRegister : Prop :=
  (∀ x, decodeWord (wordXNN 0xF x 0x65) = .ok (.ldVxMem x)) ∧
  ∀ s x, ∃ t, exec (.ldVxMem x) s = .next t ∧ (∀ k : Reg, k ≤ x → t.getV k = s.memRead (s.indexed k.val)) ∧
    (∀ k : Reg, x < k → t.getV k = s.getV k) ∧ t.i.toNat = (s.i.toNat + x.val + 1) % 65536 ∧ t.pc = s.pc + 2 ∧
    SameMemory s t ∧ SameDevices s t ∧ EndedOk t

/-- A block stored and loaded back from the same place gives every register its value again, whatever the registers held in between
(R91, R92, R43). -/
def Obligations.BlockLoadUndoesBlockStore : Prop :=
  ∀ s x, ∃ t, exec (.ldMemVx x) s = .next t ∧
    ∀ v, ∃ u, exec (.ldVxMem x) { t with i := s.i, v := v } = .next u ∧ (∀ k : Reg, k ≤ x → u.getV k = s.getV k) ∧ u.i = t.i

/-- A store is seen by the next fetch (R45, R138): where LD [I],Vx writes registers k and k + 1 over the two bytes of the very next
instruction, the next fetch reads those two registers. -/
def Obligations.StoreIsSeenByTheNextFetch : Prop :=
  ∀ s t (x k : Reg) (h : k.val + 1 < 16), exec (.ldMemVx x) s = .next t → k.val + 1 ≤ x.val →
    s.indexed k.val % 4096 = t.pc.toNat % 4096 → t.fetch = wordOfBytes (s.getV k) (s.getV ⟨k.val + 1, h⟩)

/-! ## Display (spec/43_display.md) -/

/-- CLS (R95): every pixel off, RP and `changed` 1 even where the display was blank, VF not written, PC + 2, nothing else changes. -/
def Obligations.ClsBlanksTheDisplay : Prop :=
  (∀ d, decodeWord (wordXNN 0x0 d 0xE0) = .ok .cls) ∧
  ∀ s, ∃ t, exec .cls s = .next t ∧ (∀ k, k < 2048 → t.pixel k = false) ∧ t.rp = true ∧ t.status = .ok ∧ t.changed = true ∧
    SameRegs s t ∧ t.pc = s.pc + 2 ∧ t.i = s.i ∧ SameMemory s t ∧ SameStack s t ∧ SameKeys s t ∧ SameTimers s t ∧
    t.draws = s.draws

/-- DRW Vx,Vy,n (R96): every pixel a set sprite bit covers is inverted once and every other pixel is as before, with coordinates from
the old V[x] and V[y] (VF included) wrapped pixel by pixel; VF is 1 if a covered pixel was on before, else 0, also when n = 0; RP is
set, and `changed` is 1, exactly when some sprite bit is 1; PC + 2 and nothing else changes. -/
def Obligations.DrwXorsTheSpriteAndReportsCollision : Prop :=
  (∀ x y n, decodeWord (wordXYN 0xD x y n) = .ok (.drw x y n)) ∧
  ∀ s x y (n : Digit), ∃ t, exec (.drw x y n) s = .next t ∧
    (∀ px py, px < 64 → py < 32 →
      (s.spriteCovers (s.getV x).toNat (s.getV y).toNat n.val px py → t.pixel (py * 64 + px) = !s.pixel (py * 64 + px)) ∧
      (¬ s.spriteCovers (s.getV x).toNat (s.getV y).toNat n.val px py → t.pixel (py * 64 + px) = s.pixel (py * 64 + px))) ∧
    ((∃ px py, px < 64 ∧ py < 32 ∧ s.spriteCovers (s.getV x).toNat (s.getV y).toNat n.val px py ∧
      s.pixel (py * 64 + px) = true) → t.getV VF = 1) ∧
    ((∀ px py, px < 64 → py < 32 → s.spriteCovers (s.getV x).toNat (s.getV y).toNat n.val px py →
      s.pixel (py * 64 + px) = false) → t.getV VF = 0) ∧
    (t.changed = true ↔ ∃ row col, row < n.val ∧ col < 8 ∧ (s.memRead (s.indexed row)).getLsbD (7 - col) = true) ∧
    t.rp = (s.rp || t.changed) ∧ t.status = .ok ∧ SameRegsBut VF s t ∧ t.pc = s.pc + 2 ∧ t.i = s.i ∧ SameMemory s t ∧
    SameStack s t ∧ SameKeys s t ∧ SameTimers s t ∧ t.draws = s.draws

/-- Drawing the same sprite at the same place twice restores every pixel (R97 b); the place is the same where neither coordinate
register is VF. The second drawing reports a collision exactly when some covered pixel was off before the first, as R96 gives it;
R97 (b) says it does whenever the sprite has a 1 bit, which R96 does not give where every covered pixel was on (assumption 12). -/
def Obligations.DrawingTwiceRestoresTheDisplay : Prop :=
  ∀ s x y (n : Digit), x ≠ VF → y ≠ VF → ∃ t u, exec (.drw x y n) s = .next t ∧ exec (.drw x y n) t = .next u ∧
    (∀ k, k < 2048 → u.pixel k = s.pixel k) ∧
    ((∃ px py, px < 64 ∧ py < 32 ∧ s.spriteCovers (s.getV x).toNat (s.getV y).toNat n.val px py ∧
      s.pixel (py * 64 + px) = false) → u.getV VF = 1) ∧
    ((∀ px py, px < 64 → py < 32 → s.spriteCovers (s.getV x).toNat (s.getV y).toNat n.val px py →
      s.pixel (py * 64 + px) = true) → u.getV VF = 0)

/-- CLS followed by a DRW leaves exactly the sprite's pixels on, without a collision (R97 a). -/
def Obligations.DrawingOnABlankDisplayShowsTheSprite : Prop :=
  ∀ s x y (n : Digit), ∃ t u, exec .cls s = .next t ∧ exec (.drw x y n) t = .next u ∧ u.getV VF = 0 ∧
    ∀ px py, px < 64 → py < 32 →
      (u.pixel (py * 64 + px) = true ↔ s.spriteCovers (s.getV x).toNat (s.getV y).toNat n.val px py)

/-! ## Keys and timers (spec/44_keys_timers.md) -/

/-- SKP and SKNP (R101, R102, R107): the key is V[x] mod 16; PC + 4 if it is pressed (not pressed), else PC + 2; nothing else
changes. -/
def Obligations.KeySkipsTestTheKeyLatch : Prop :=
  (∀ x, decodeWord (wordXNN 0xE x 0x9E) = .ok (.skp x) ∧ decodeWord (wordXNN 0xE x 0xA1) = .ok (.sknp x)) ∧
  (∀ s x (k : Digit), k.val = (s.getV x).toNat % 16 → ∃ t, exec (.skp x) s = .next t ∧
    t.pc = (if s.keyPressed k = true then s.pc + 4 else s.pc + 2) ∧ SameRegs s t ∧ SameButRegsPc s t ∧ EndedOk t) ∧
  ∀ s x (k : Digit), k.val = (s.getV x).toNat % 16 → ∃ t, exec (.sknp x) s = .next t ∧
    t.pc = (if s.keyPressed k = true then s.pc + 2 else s.pc + 4) ∧ SameRegs s t ∧ SameButRegsPc s t ∧ EndedOk t

/-- LD Vx,K (R103): the least pressed key in V[x] and PC + 2; with no key pressed nothing changes, PC included, and the status is OK,
so the next step executes the same instruction again. -/
def Obligations.KeyWaitTakesTheLeastPressedKey : Prop :=
  (∀ x, decodeWord (wordXNN 0xF x 0x0A) = .ok (.ldVxK x)) ∧
  (∀ s x (k : Digit), s.keyPressed k = true → (∀ j : Digit, j < k → s.keyPressed j = false) →
    ∃ t, exec (.ldVxK x) s = .next t ∧ (t.getV x).toNat = k.val ∧ SameRegsBut x s t ∧ t.pc = s.pc + 2 ∧ SameButRegsPc s t ∧
      EndedOk t) ∧
  ∀ s x, (∀ j, s.keyPressed j = false) → ∃ t, exec (.ldVxK x) s = .next t ∧ SameMachine s t ∧ EndedOk t

/-- LD Vx,DT, LD DT,Vx, LD ST,Vx (R104 to R106): the one value moved, PC + 2, nothing else changes. -/
def Obligations.TimerMoves : Prop :=
  (∀ x, decodeWord (wordXNN 0xF x 0x07) = .ok (.ldVxDT x) ∧ decodeWord (wordXNN 0xF x 0x15) = .ok (.ldDTVx x) ∧
    decodeWord (wordXNN 0xF x 0x18) = .ok (.ldSTVx x)) ∧
  (∀ s x, ∃ t, exec (.ldVxDT x) s = .next t ∧ t.getV x = s.dt ∧ SameRegsBut x s t ∧ t.pc = s.pc + 2 ∧ SameButRegsPc s t ∧
    EndedOk t) ∧
  (∀ s x, ∃ t, exec (.ldDTVx x) s = .next t ∧ t.dt = s.getV x ∧ t.st = s.st ∧ SameRegs s t ∧ t.pc = s.pc + 2 ∧ t.i = s.i ∧
    SameMemory s t ∧ SameStack s t ∧ SameDisplay s t ∧ SameKeys s t ∧ t.draws = s.draws ∧ EndedOk t) ∧
  ∀ s x, ∃ t, exec (.ldSTVx x) s = .next t ∧ t.st = s.getV x ∧ t.dt = s.dt ∧ SameRegs s t ∧ t.pc = s.pc + 2 ∧ t.i = s.i ∧
    SameMemory s t ∧ SameStack s t ∧ SameDisplay s t ∧ SameKeys s t ∧ t.draws = s.draws ∧ EndedOk t

/-! ## The host's other transactions -/

/-- `tick` (R108): each timer one less while above 0, never below 0; the tone request exactly when ST was 1; nothing else of the
machine changes. -/
def Obligations.TickCountsBothTimersDown : Prop :=
  ∀ s, ∃ t, transact s .tick = .next (t, .ticked (decide (s.st.toNat = 1))) ∧ t.dt.toNat = s.dt.toNat - 1 ∧
    t.st.toNat = s.st.toNat - 1 ∧ t.pc = s.pc ∧ SameRegs s t ∧ t.i = s.i ∧ SameMemory s t ∧ SameStack s t ∧ SameDisplay s t ∧
    SameKeys s t ∧ t.draws = s.draws

/-- The tone is requested once per countdown (R109): of n ticks in a row exactly one requests it if ST was between 1 and n, else
none; and the timers stop at 0 (R24, R25). -/
def Obligations.ToneIsRequestedOncePerCountdown : Prop :=
  ∀ s n, ∃ u rs, runTransactions s (List.replicate n .tick) = .next (u, rs) ∧ u.dt.toNat = s.dt.toNat - n ∧
    u.st.toNat = s.st.toNat - n ∧ rs.length = n ∧
    rs.count (.ticked true) = (if 1 ≤ s.st.toNat ∧ s.st.toNat ≤ n then 1 else 0)

/-- `setKey`, `clearRedraw`, `readDisplay` (R98, R99, R110): the one key set; RP 0; the bitmap returned, bit x of row y being pixel
y·64 + x; and nothing else of the machine changes. -/
def Obligations.HostWritesTouchOnlyTheirField : Prop :=
  (∀ s k p, ∃ t, transact s (.setKey k p) = .next (t, .done) ∧ t.keyPressed k = p ∧
    (∀ j, j ≠ k → t.keyPressed j = s.keyPressed j) ∧ t = { s with key := t.key }) ∧
  (∀ s, ∃ t, transact s .clearRedraw = .next (t, .done) ∧ t = { s with rp := false }) ∧
  ∀ s, ∃ p, transact s .readDisplay = .next (s, .display p) ∧
    ∀ px py (h : py < 32), px < 64 → (p.get ⟨py, h⟩).getLsbD px = s.pixel (py * 64 + px)

/-- `loadProgram` (R117, R131): an image of at most 3584 bytes is copied verbatim to 0x200 on and nothing else changes; a longer one
gives RomTooLarge and changes nothing. -/
def Obligations.LoadProgramCopiesTheImageOrRefusesIt : Prop :=
  (∀ s (image : List Byte), image.length ≤ 3584 → ∃ t, transact s (.loadProgram image) = .next (t, .done) ∧
    (∀ k (h : k < image.length), t.memRead (0x200 + k) = image[k]) ∧
    (∀ a, (a % 4096 < 0x200 ∨ 0x200 + image.length ≤ a % 4096) → t.memRead a = s.memRead a) ∧ t = { s with mem := t.mem }) ∧
  ∀ s (image : List Byte), 3584 < image.length → transact s (.loadProgram image) = .next (s, .romTooLarge)

/-- `reset` (R29, R129): from every state, the table of R29: registers, I, stack, SP, keys, pixels, timers and RP 0, PC 0x0200, memory
the core's FONT at 0x000..0x04F and 0 above; and the core's FONT is the one it had. -/
def Obligations.ResetLeavesTheResetTable : Prop :=
  ∀ s, ∃ t, transact s .reset = .next (t, .done) ∧ LaunchState s.font [] t ∧ t.font = s.font

/-- Boot (R133, R18): from every state, reset and a load that succeeds leave the table of R29, all of it, with the image from 0x200
on and zero above it; the first fetch reads the image's first two bytes. -/
def Obligations.BootLeavesTheLaunchState : Prop :=
  ∀ s (image : List Byte), image.length ≤ 3584 → ∃ t, boot s image = .next (t, [.done, .done]) ∧
    LaunchState s.font image t ∧ t.font = s.font ∧
    (∀ h : 1 < image.length, t.fetch = wordOfBytes image[0] image[1])

/-! ## The results of a step, and the parameter -/

/-- The status codes (R112, D6): a step returns exactly one of 0..3 to the host: 1 exactly for a word of R53, 2 exactly for CALL at
SP = 16, 3 exactly for RET at SP = 0, and 0 in every other case. -/
def Obligations.StepReturnsItsStatusCode : Prop :=
  ∀ s, ∃ t st ch, transact s .step = .next (t, .stepped st ch) ∧
    (st.code = 1 ↔ unknownWord s.fetch) ∧
    (st.code = 2 ↔ s.sp = 16 ∧ ∃ nnn, decodeWord s.fetch = .ok (.call nnn)) ∧
    (st.code = 3 ↔ s.sp = 0 ∧ decodeWord s.fetch = .ok .ret) ∧
    (st.code = 0 ↔ st.code ≠ 1 ∧ st.code ≠ 2 ∧ st.code ≠ 3)

/-- FONT is a parameter (R20, R5): no instruction, no step and no transaction changes it, so that it is one value for a whole run.
That the state carries it is the model's choice (assumption 4). -/
def Obligations.NothingChangesTheFont : Prop :=
  (∀ i s t, exec i s = .next t → t.font = s.font) ∧ (∀ s t, step s = .next t → t.font = s.font) ∧
  ∀ (ts : List Transaction) s u rs, runTransactions s ts = .next (u, rs) → u.font = s.font
end

