-- ==== Sys2Proof/Laws/State.lean ====
section
/-!
SUPPORT. Laws/State.lean: what each update of the state does to each field, one lemma per field per update, and what each view
of the state reads after an update of something else. The lemmas are the model's simp set: no later proof unfolds an update.
-/

namespace Sys2Proof.Machine

/-! ### setV -/

@[simp] theorem State.setV_v (s : State) (r : Reg) (b : Byte) : (s.setV r b).v = s.v.set r.val b r.isLt := rfl
@[simp] theorem State.setV_i (s : State) (r : Reg) (b : Byte) : (s.setV r b).i = s.i := rfl
@[simp] theorem State.setV_pc (s : State) (r : Reg) (b : Byte) : (s.setV r b).pc = s.pc := rfl
@[simp] theorem State.setV_mem (s : State) (r : Reg) (b : Byte) : (s.setV r b).mem = s.mem := rfl
@[simp] theorem State.setV_stk (s : State) (r : Reg) (b : Byte) : (s.setV r b).stk = s.stk := rfl
@[simp] theorem State.setV_sp (s : State) (r : Reg) (b : Byte) : (s.setV r b).sp = s.sp := rfl
@[simp] theorem State.setV_key (s : State) (r : Reg) (b : Byte) : (s.setV r b).key = s.key := rfl
@[simp] theorem State.setV_pix (s : State) (r : Reg) (b : Byte) : (s.setV r b).pix = s.pix := rfl
@[simp] theorem State.setV_dt (s : State) (r : Reg) (b : Byte) : (s.setV r b).dt = s.dt := rfl
@[simp] theorem State.setV_st (s : State) (r : Reg) (b : Byte) : (s.setV r b).st = s.st := rfl
@[simp] theorem State.setV_rp (s : State) (r : Reg) (b : Byte) : (s.setV r b).rp = s.rp := rfl
@[simp] theorem State.setV_status (s : State) (r : Reg) (b : Byte) : (s.setV r b).status = s.status := rfl
@[simp] theorem State.setV_changed (s : State) (r : Reg) (b : Byte) : (s.setV r b).changed = s.changed := rfl
@[simp] theorem State.setV_draws (s : State) (r : Reg) (b : Byte) : (s.setV r b).draws = s.draws := rfl
@[simp] theorem State.setV_font (s : State) (r : Reg) (b : Byte) : (s.setV r b).font = s.font := rfl

/-! ### setFlag -/

@[simp] theorem State.setFlag_v (s : State) (f : Bool) : (s.setFlag f).v = s.v.set VF.val (flagByte f) VF.isLt := rfl
@[simp] theorem State.setFlag_i (s : State) (f : Bool) : (s.setFlag f).i = s.i := rfl
@[simp] theorem State.setFlag_pc (s : State) (f : Bool) : (s.setFlag f).pc = s.pc := rfl
@[simp] theorem State.setFlag_mem (s : State) (f : Bool) : (s.setFlag f).mem = s.mem := rfl
@[simp] theorem State.setFlag_stk (s : State) (f : Bool) : (s.setFlag f).stk = s.stk := rfl
@[simp] theorem State.setFlag_sp (s : State) (f : Bool) : (s.setFlag f).sp = s.sp := rfl
@[simp] theorem State.setFlag_key (s : State) (f : Bool) : (s.setFlag f).key = s.key := rfl
@[simp] theorem State.setFlag_pix (s : State) (f : Bool) : (s.setFlag f).pix = s.pix := rfl
@[simp] theorem State.setFlag_dt (s : State) (f : Bool) : (s.setFlag f).dt = s.dt := rfl
@[simp] theorem State.setFlag_st (s : State) (f : Bool) : (s.setFlag f).st = s.st := rfl
@[simp] theorem State.setFlag_rp (s : State) (f : Bool) : (s.setFlag f).rp = s.rp := rfl
@[simp] theorem State.setFlag_status (s : State) (f : Bool) : (s.setFlag f).status = s.status := rfl
@[simp] theorem State.setFlag_changed (s : State) (f : Bool) : (s.setFlag f).changed = s.changed := rfl
@[simp] theorem State.setFlag_draws (s : State) (f : Bool) : (s.setFlag f).draws = s.draws := rfl
@[simp] theorem State.setFlag_font (s : State) (f : Bool) : (s.setFlag f).font = s.font := rfl

/-! ### setI -/

@[simp] theorem State.setI_v (s : State) (w : Word) : (s.setI w).v = s.v := rfl
@[simp] theorem State.setI_i (s : State) (w : Word) : (s.setI w).i = w := rfl
@[simp] theorem State.setI_pc (s : State) (w : Word) : (s.setI w).pc = s.pc := rfl
@[simp] theorem State.setI_mem (s : State) (w : Word) : (s.setI w).mem = s.mem := rfl
@[simp] theorem State.setI_stk (s : State) (w : Word) : (s.setI w).stk = s.stk := rfl
@[simp] theorem State.setI_sp (s : State) (w : Word) : (s.setI w).sp = s.sp := rfl
@[simp] theorem State.setI_key (s : State) (w : Word) : (s.setI w).key = s.key := rfl
@[simp] theorem State.setI_pix (s : State) (w : Word) : (s.setI w).pix = s.pix := rfl
@[simp] theorem State.setI_dt (s : State) (w : Word) : (s.setI w).dt = s.dt := rfl
@[simp] theorem State.setI_st (s : State) (w : Word) : (s.setI w).st = s.st := rfl
@[simp] theorem State.setI_rp (s : State) (w : Word) : (s.setI w).rp = s.rp := rfl
@[simp] theorem State.setI_status (s : State) (w : Word) : (s.setI w).status = s.status := rfl
@[simp] theorem State.setI_changed (s : State) (w : Word) : (s.setI w).changed = s.changed := rfl
@[simp] theorem State.setI_draws (s : State) (w : Word) : (s.setI w).draws = s.draws := rfl
@[simp] theorem State.setI_font (s : State) (w : Word) : (s.setI w).font = s.font := rfl

/-! ### setPc -/

@[simp] theorem State.setPc_v (s : State) (w : Word) : (s.setPc w).v = s.v := rfl
@[simp] theorem State.setPc_i (s : State) (w : Word) : (s.setPc w).i = s.i := rfl
@[simp] theorem State.setPc_pc (s : State) (w : Word) : (s.setPc w).pc = w := rfl
@[simp] theorem State.setPc_mem (s : State) (w : Word) : (s.setPc w).mem = s.mem := rfl
@[simp] theorem State.setPc_stk (s : State) (w : Word) : (s.setPc w).stk = s.stk := rfl
@[simp] theorem State.setPc_sp (s : State) (w : Word) : (s.setPc w).sp = s.sp := rfl
@[simp] theorem State.setPc_key (s : State) (w : Word) : (s.setPc w).key = s.key := rfl
@[simp] theorem State.setPc_pix (s : State) (w : Word) : (s.setPc w).pix = s.pix := rfl
@[simp] theorem State.setPc_dt (s : State) (w : Word) : (s.setPc w).dt = s.dt := rfl
@[simp] theorem State.setPc_st (s : State) (w : Word) : (s.setPc w).st = s.st := rfl
@[simp] theorem State.setPc_rp (s : State) (w : Word) : (s.setPc w).rp = s.rp := rfl
@[simp] theorem State.setPc_status (s : State) (w : Word) : (s.setPc w).status = s.status := rfl
@[simp] theorem State.setPc_changed (s : State) (w : Word) : (s.setPc w).changed = s.changed := rfl
@[simp] theorem State.setPc_draws (s : State) (w : Word) : (s.setPc w).draws = s.draws := rfl
@[simp] theorem State.setPc_font (s : State) (w : Word) : (s.setPc w).font = s.font := rfl

/-! ### advance -/

@[simp] theorem State.advance_v (s : State) : s.advance.v = s.v := rfl
@[simp] theorem State.advance_i (s : State) : s.advance.i = s.i := rfl
@[simp] theorem State.advance_pc (s : State) : s.advance.pc = s.pc + 2 := rfl
@[simp] theorem State.advance_mem (s : State) : s.advance.mem = s.mem := rfl
@[simp] theorem State.advance_stk (s : State) : s.advance.stk = s.stk := rfl
@[simp] theorem State.advance_sp (s : State) : s.advance.sp = s.sp := rfl
@[simp] theorem State.advance_key (s : State) : s.advance.key = s.key := rfl
@[simp] theorem State.advance_pix (s : State) : s.advance.pix = s.pix := rfl
@[simp] theorem State.advance_dt (s : State) : s.advance.dt = s.dt := rfl
@[simp] theorem State.advance_st (s : State) : s.advance.st = s.st := rfl
@[simp] theorem State.advance_rp (s : State) : s.advance.rp = s.rp := rfl
@[simp] theorem State.advance_status (s : State) : s.advance.status = s.status := rfl
@[simp] theorem State.advance_changed (s : State) : s.advance.changed = s.changed := rfl
@[simp] theorem State.advance_draws (s : State) : s.advance.draws = s.draws := rfl
@[simp] theorem State.advance_font (s : State) : s.advance.font = s.font := rfl

/-! ### skipIf -/

@[simp] theorem State.skipIf_v (s : State) (c : Bool) : (s.skipIf c).v = s.v := rfl
@[simp] theorem State.skipIf_i (s : State) (c : Bool) : (s.skipIf c).i = s.i := rfl
@[simp] theorem State.skipIf_pc (s : State) (c : Bool) : (s.skipIf c).pc = if c then s.pc + 4 else s.pc + 2 := rfl
@[simp] theorem State.skipIf_mem (s : State) (c : Bool) : (s.skipIf c).mem = s.mem := rfl
@[simp] theorem State.skipIf_stk (s : State) (c : Bool) : (s.skipIf c).stk = s.stk := rfl
@[simp] theorem State.skipIf_sp (s : State) (c : Bool) : (s.skipIf c).sp = s.sp := rfl
@[simp] theorem State.skipIf_key (s : State) (c : Bool) : (s.skipIf c).key = s.key := rfl
@[simp] theorem State.skipIf_pix (s : State) (c : Bool) : (s.skipIf c).pix = s.pix := rfl
@[simp] theorem State.skipIf_dt (s : State) (c : Bool) : (s.skipIf c).dt = s.dt := rfl
@[simp] theorem State.skipIf_st (s : State) (c : Bool) : (s.skipIf c).st = s.st := rfl
@[simp] theorem State.skipIf_rp (s : State) (c : Bool) : (s.skipIf c).rp = s.rp := rfl
@[simp] theorem State.skipIf_status (s : State) (c : Bool) : (s.skipIf c).status = s.status := rfl
@[simp] theorem State.skipIf_changed (s : State) (c : Bool) : (s.skipIf c).changed = s.changed := rfl
@[simp] theorem State.skipIf_draws (s : State) (c : Bool) : (s.skipIf c).draws = s.draws := rfl
@[simp] theorem State.skipIf_font (s : State) (c : Bool) : (s.skipIf c).font = s.font := rfl

/-! ### setStk -/

@[simp] theorem State.setStk_v (s : State) (k : Fin 16) (w : Word) : (s.setStk k w).v = s.v := rfl
@[simp] theorem State.setStk_i (s : State) (k : Fin 16) (w : Word) : (s.setStk k w).i = s.i := rfl
@[simp] theorem State.setStk_pc (s : State) (k : Fin 16) (w : Word) : (s.setStk k w).pc = s.pc := rfl
@[simp] theorem State.setStk_mem (s : State) (k : Fin 16) (w : Word) : (s.setStk k w).mem = s.mem := rfl
@[simp] theorem State.setStk_stk (s : State) (k : Fin 16) (w : Word) : (s.setStk k w).stk = s.stk.set k.val w k.isLt := rfl
@[simp] theorem State.setStk_sp (s : State) (k : Fin 16) (w : Word) : (s.setStk k w).sp = s.sp := rfl
@[simp] theorem State.setStk_key (s : State) (k : Fin 16) (w : Word) : (s.setStk k w).key = s.key := rfl
@[simp] theorem State.setStk_pix (s : State) (k : Fin 16) (w : Word) : (s.setStk k w).pix = s.pix := rfl
@[simp] theorem State.setStk_dt (s : State) (k : Fin 16) (w : Word) : (s.setStk k w).dt = s.dt := rfl
@[simp] theorem State.setStk_st (s : State) (k : Fin 16) (w : Word) : (s.setStk k w).st = s.st := rfl
@[simp] theorem State.setStk_rp (s : State) (k : Fin 16) (w : Word) : (s.setStk k w).rp = s.rp := rfl
@[simp] theorem State.setStk_status (s : State) (k : Fin 16) (w : Word) : (s.setStk k w).status = s.status := rfl
@[simp] theorem State.setStk_changed (s : State) (k : Fin 16) (w : Word) : (s.setStk k w).changed = s.changed := rfl
@[simp] theorem State.setStk_draws (s : State) (k : Fin 16) (w : Word) : (s.setStk k w).draws = s.draws := rfl
@[simp] theorem State.setStk_font (s : State) (k : Fin 16) (w : Word) : (s.setStk k w).font = s.font := rfl

/-! ### setSp -/

@[simp] theorem State.setSp_v (s : State) (n : Fin 17) : (s.setSp n).v = s.v := rfl
@[simp] theorem State.setSp_i (s : State) (n : Fin 17) : (s.setSp n).i = s.i := rfl
@[simp] theorem State.setSp_pc (s : State) (n : Fin 17) : (s.setSp n).pc = s.pc := rfl
@[simp] theorem State.setSp_mem (s : State) (n : Fin 17) : (s.setSp n).mem = s.mem := rfl
@[simp] theorem State.setSp_stk (s : State) (n : Fin 17) : (s.setSp n).stk = s.stk := rfl
@[simp] theorem State.setSp_sp (s : State) (n : Fin 17) : (s.setSp n).sp = n := rfl
@[simp] theorem State.setSp_key (s : State) (n : Fin 17) : (s.setSp n).key = s.key := rfl
@[simp] theorem State.setSp_pix (s : State) (n : Fin 17) : (s.setSp n).pix = s.pix := rfl
@[simp] theorem State.setSp_dt (s : State) (n : Fin 17) : (s.setSp n).dt = s.dt := rfl
@[simp] theorem State.setSp_st (s : State) (n : Fin 17) : (s.setSp n).st = s.st := rfl
@[simp] theorem State.setSp_rp (s : State) (n : Fin 17) : (s.setSp n).rp = s.rp := rfl
@[simp] theorem State.setSp_status (s : State) (n : Fin 17) : (s.setSp n).status = s.status := rfl
@[simp] theorem State.setSp_changed (s : State) (n : Fin 17) : (s.setSp n).changed = s.changed := rfl
@[simp] theorem State.setSp_draws (s : State) (n : Fin 17) : (s.setSp n).draws = s.draws := rfl
@[simp] theorem State.setSp_font (s : State) (n : Fin 17) : (s.setSp n).font = s.font := rfl

/-! ### setDt -/

@[simp] theorem State.setDt_v (s : State) (b : Byte) : (s.setDt b).v = s.v := rfl
@[simp] theorem State.setDt_i (s : State) (b : Byte) : (s.setDt b).i = s.i := rfl
@[simp] theorem State.setDt_pc (s : State) (b : Byte) : (s.setDt b).pc = s.pc := rfl
@[simp] theorem State.setDt_mem (s : State) (b : Byte) : (s.setDt b).mem = s.mem := rfl
@[simp] theorem State.setDt_stk (s : State) (b : Byte) : (s.setDt b).stk = s.stk := rfl
@[simp] theorem State.setDt_sp (s : State) (b : Byte) : (s.setDt b).sp = s.sp := rfl
@[simp] theorem State.setDt_key (s : State) (b : Byte) : (s.setDt b).key = s.key := rfl
@[simp] theorem State.setDt_pix (s : State) (b : Byte) : (s.setDt b).pix = s.pix := rfl
@[simp] theorem State.setDt_dt (s : State) (b : Byte) : (s.setDt b).dt = b := rfl
@[simp] theorem State.setDt_st (s : State) (b : Byte) : (s.setDt b).st = s.st := rfl
@[simp] theorem State.setDt_rp (s : State) (b : Byte) : (s.setDt b).rp = s.rp := rfl
@[simp] theorem State.setDt_status (s : State) (b : Byte) : (s.setDt b).status = s.status := rfl
@[simp] theorem State.setDt_changed (s : State) (b : Byte) : (s.setDt b).changed = s.changed := rfl
@[simp] theorem State.setDt_draws (s : State) (b : Byte) : (s.setDt b).draws = s.draws := rfl
@[simp] theorem State.setDt_font (s : State) (b : Byte) : (s.setDt b).font = s.font := rfl

/-! ### setSt -/

@[simp] theorem State.setSt_v (s : State) (b : Byte) : (s.setSt b).v = s.v := rfl
@[simp] theorem State.setSt_i (s : State) (b : Byte) : (s.setSt b).i = s.i := rfl
@[simp] theorem State.setSt_pc (s : State) (b : Byte) : (s.setSt b).pc = s.pc := rfl
@[simp] theorem State.setSt_mem (s : State) (b : Byte) : (s.setSt b).mem = s.mem := rfl
@[simp] theorem State.setSt_stk (s : State) (b : Byte) : (s.setSt b).stk = s.stk := rfl
@[simp] theorem State.setSt_sp (s : State) (b : Byte) : (s.setSt b).sp = s.sp := rfl
@[simp] theorem State.setSt_key (s : State) (b : Byte) : (s.setSt b).key = s.key := rfl
@[simp] theorem State.setSt_pix (s : State) (b : Byte) : (s.setSt b).pix = s.pix := rfl
@[simp] theorem State.setSt_dt (s : State) (b : Byte) : (s.setSt b).dt = s.dt := rfl
@[simp] theorem State.setSt_st (s : State) (b : Byte) : (s.setSt b).st = b := rfl
@[simp] theorem State.setSt_rp (s : State) (b : Byte) : (s.setSt b).rp = s.rp := rfl
@[simp] theorem State.setSt_status (s : State) (b : Byte) : (s.setSt b).status = s.status := rfl
@[simp] theorem State.setSt_changed (s : State) (b : Byte) : (s.setSt b).changed = s.changed := rfl
@[simp] theorem State.setSt_draws (s : State) (b : Byte) : (s.setSt b).draws = s.draws := rfl
@[simp] theorem State.setSt_font (s : State) (b : Byte) : (s.setSt b).font = s.font := rfl

/-! ### drawn -/

@[simp] theorem State.drawn_v (s : State) : s.drawn.v = s.v := rfl
@[simp] theorem State.drawn_i (s : State) : s.drawn.i = s.i := rfl
@[simp] theorem State.drawn_pc (s : State) : s.drawn.pc = s.pc := rfl
@[simp] theorem State.drawn_mem (s : State) : s.drawn.mem = s.mem := rfl
@[simp] theorem State.drawn_stk (s : State) : s.drawn.stk = s.stk := rfl
@[simp] theorem State.drawn_sp (s : State) : s.drawn.sp = s.sp := rfl
@[simp] theorem State.drawn_key (s : State) : s.drawn.key = s.key := rfl
@[simp] theorem State.drawn_pix (s : State) : s.drawn.pix = s.pix := rfl
@[simp] theorem State.drawn_dt (s : State) : s.drawn.dt = s.dt := rfl
@[simp] theorem State.drawn_st (s : State) : s.drawn.st = s.st := rfl
@[simp] theorem State.drawn_rp (s : State) : s.drawn.rp = s.rp := rfl
@[simp] theorem State.drawn_status (s : State) : s.drawn.status = s.status := rfl
@[simp] theorem State.drawn_changed (s : State) : s.drawn.changed = s.changed := rfl
@[simp] theorem State.drawn_draws (s : State) : s.drawn.draws = s.draws + 1 := rfl
@[simp] theorem State.drawn_font (s : State) : s.drawn.font = s.font := rfl

/-! ### memWrite -/

@[simp] theorem State.memWrite_v (s : State) (a : Nat) (b : Byte) : (s.memWrite a b).v = s.v := rfl
@[simp] theorem State.memWrite_i (s : State) (a : Nat) (b : Byte) : (s.memWrite a b).i = s.i := rfl
@[simp] theorem State.memWrite_pc (s : State) (a : Nat) (b : Byte) : (s.memWrite a b).pc = s.pc := rfl
@[simp] theorem State.memWrite_mem (s : State) (a : Nat) (b : Byte) : (s.memWrite a b).mem = Memory.write s.font s.mem (a % Config.memSize) b := rfl
@[simp] theorem State.memWrite_stk (s : State) (a : Nat) (b : Byte) : (s.memWrite a b).stk = s.stk := rfl
@[simp] theorem State.memWrite_sp (s : State) (a : Nat) (b : Byte) : (s.memWrite a b).sp = s.sp := rfl
@[simp] theorem State.memWrite_key (s : State) (a : Nat) (b : Byte) : (s.memWrite a b).key = s.key := rfl
@[simp] theorem State.memWrite_pix (s : State) (a : Nat) (b : Byte) : (s.memWrite a b).pix = s.pix := rfl
@[simp] theorem State.memWrite_dt (s : State) (a : Nat) (b : Byte) : (s.memWrite a b).dt = s.dt := rfl
@[simp] theorem State.memWrite_st (s : State) (a : Nat) (b : Byte) : (s.memWrite a b).st = s.st := rfl
@[simp] theorem State.memWrite_rp (s : State) (a : Nat) (b : Byte) : (s.memWrite a b).rp = s.rp := rfl
@[simp] theorem State.memWrite_status (s : State) (a : Nat) (b : Byte) : (s.memWrite a b).status = s.status := rfl
@[simp] theorem State.memWrite_changed (s : State) (a : Nat) (b : Byte) : (s.memWrite a b).changed = s.changed := rfl
@[simp] theorem State.memWrite_draws (s : State) (a : Nat) (b : Byte) : (s.memWrite a b).draws = s.draws := rfl
@[simp] theorem State.memWrite_font (s : State) (a : Nat) (b : Byte) : (s.memWrite a b).font = s.font := rfl

/-! ### Views after an update of another field -/

@[simp] theorem State.memRead_setV (s : State) (r : Reg) (b : Byte) (d : Nat) : (s.setV r b).memRead d = s.memRead d := rfl
@[simp] theorem State.pixel_setV (s : State) (r : Reg) (b : Byte) (j : Nat) : (s.setV r b).pixel j = s.pixel j := rfl
@[simp] theorem State.keyPressed_setV (s : State) (r : Reg) (b : Byte) (j : Digit) : (s.setV r b).keyPressed j = s.keyPressed j := rfl
@[simp] theorem State.indexed_setV (s : State) (r : Reg) (b : Byte) (j : Nat) : (s.setV r b).indexed j = s.indexed j := rfl
@[simp] theorem State.memRead_setFlag (s : State) (f : Bool) (d : Nat) : (s.setFlag f).memRead d = s.memRead d := rfl
@[simp] theorem State.pixel_setFlag (s : State) (f : Bool) (j : Nat) : (s.setFlag f).pixel j = s.pixel j := rfl
@[simp] theorem State.keyPressed_setFlag (s : State) (f : Bool) (j : Digit) : (s.setFlag f).keyPressed j = s.keyPressed j := rfl
@[simp] theorem State.indexed_setFlag (s : State) (f : Bool) (j : Nat) : (s.setFlag f).indexed j = s.indexed j := rfl
@[simp] theorem State.getV_setI (s : State) (w : Word) (q : Reg) : (s.setI w).getV q = s.getV q := rfl
@[simp] theorem State.memRead_setI (s : State) (w : Word) (d : Nat) : (s.setI w).memRead d = s.memRead d := rfl
@[simp] theorem State.pixel_setI (s : State) (w : Word) (j : Nat) : (s.setI w).pixel j = s.pixel j := rfl
@[simp] theorem State.keyPressed_setI (s : State) (w : Word) (j : Digit) : (s.setI w).keyPressed j = s.keyPressed j := rfl
@[simp] theorem State.getV_setPc (s : State) (w : Word) (q : Reg) : (s.setPc w).getV q = s.getV q := rfl
@[simp] theorem State.memRead_setPc (s : State) (w : Word) (d : Nat) : (s.setPc w).memRead d = s.memRead d := rfl
@[simp] theorem State.pixel_setPc (s : State) (w : Word) (j : Nat) : (s.setPc w).pixel j = s.pixel j := rfl
@[simp] theorem State.keyPressed_setPc (s : State) (w : Word) (j : Digit) : (s.setPc w).keyPressed j = s.keyPressed j := rfl
@[simp] theorem State.indexed_setPc (s : State) (w : Word) (j : Nat) : (s.setPc w).indexed j = s.indexed j := rfl
@[simp] theorem State.getV_advance (s : State) (q : Reg) : s.advance.getV q = s.getV q := rfl
@[simp] theorem State.memRead_advance (s : State) (d : Nat) : s.advance.memRead d = s.memRead d := rfl
@[simp] theorem State.pixel_advance (s : State) (j : Nat) : s.advance.pixel j = s.pixel j := rfl
@[simp] theorem State.keyPressed_advance (s : State) (j : Digit) : s.advance.keyPressed j = s.keyPressed j := rfl
@[simp] theorem State.indexed_advance (s : State) (j : Nat) : s.advance.indexed j = s.indexed j := rfl
@[simp] theorem State.getV_skipIf (s : State) (c : Bool) (q : Reg) : (s.skipIf c).getV q = s.getV q := rfl
@[simp] theorem State.memRead_skipIf (s : State) (c : Bool) (d : Nat) : (s.skipIf c).memRead d = s.memRead d := rfl
@[simp] theorem State.pixel_skipIf (s : State) (c : Bool) (j : Nat) : (s.skipIf c).pixel j = s.pixel j := rfl
@[simp] theorem State.keyPressed_skipIf (s : State) (c : Bool) (j : Digit) : (s.skipIf c).keyPressed j = s.keyPressed j := rfl
@[simp] theorem State.indexed_skipIf (s : State) (c : Bool) (j : Nat) : (s.skipIf c).indexed j = s.indexed j := rfl
@[simp] theorem State.getV_setStk (s : State) (k : Fin 16) (w : Word) (q : Reg) : (s.setStk k w).getV q = s.getV q := rfl
@[simp] theorem State.memRead_setStk (s : State) (k : Fin 16) (w : Word) (d : Nat) : (s.setStk k w).memRead d = s.memRead d := rfl
@[simp] theorem State.pixel_setStk (s : State) (k : Fin 16) (w : Word) (j : Nat) : (s.setStk k w).pixel j = s.pixel j := rfl
@[simp] theorem State.keyPressed_setStk (s : State) (k : Fin 16) (w : Word) (j : Digit) : (s.setStk k w).keyPressed j = s.keyPressed j := rfl
@[simp] theorem State.indexed_setStk (s : State) (k : Fin 16) (w : Word) (j : Nat) : (s.setStk k w).indexed j = s.indexed j := rfl
@[simp] theorem State.getV_setSp (s : State) (n : Fin 17) (q : Reg) : (s.setSp n).getV q = s.getV q := rfl
@[simp] theorem State.memRead_setSp (s : State) (n : Fin 17) (d : Nat) : (s.setSp n).memRead d = s.memRead d := rfl
@[simp] theorem State.pixel_setSp (s : State) (n : Fin 17) (j : Nat) : (s.setSp n).pixel j = s.pixel j := rfl
@[simp] theorem State.keyPressed_setSp (s : State) (n : Fin 17) (j : Digit) : (s.setSp n).keyPressed j = s.keyPressed j := rfl
@[simp] theorem State.indexed_setSp (s : State) (n : Fin 17) (j : Nat) : (s.setSp n).indexed j = s.indexed j := rfl
@[simp] theorem State.getV_setDt (s : State) (b : Byte) (q : Reg) : (s.setDt b).getV q = s.getV q := rfl
@[simp] theorem State.memRead_setDt (s : State) (b : Byte) (d : Nat) : (s.setDt b).memRead d = s.memRead d := rfl
@[simp] theorem State.pixel_setDt (s : State) (b : Byte) (j : Nat) : (s.setDt b).pixel j = s.pixel j := rfl
@[simp] theorem State.keyPressed_setDt (s : State) (b : Byte) (j : Digit) : (s.setDt b).keyPressed j = s.keyPressed j := rfl
@[simp] theorem State.indexed_setDt (s : State) (b : Byte) (j : Nat) : (s.setDt b).indexed j = s.indexed j := rfl
@[simp] theorem State.getV_setSt (s : State) (b : Byte) (q : Reg) : (s.setSt b).getV q = s.getV q := rfl
@[simp] theorem State.memRead_setSt (s : State) (b : Byte) (d : Nat) : (s.setSt b).memRead d = s.memRead d := rfl
@[simp] theorem State.pixel_setSt (s : State) (b : Byte) (j : Nat) : (s.setSt b).pixel j = s.pixel j := rfl
@[simp] theorem State.keyPressed_setSt (s : State) (b : Byte) (j : Digit) : (s.setSt b).keyPressed j = s.keyPressed j := rfl
@[simp] theorem State.indexed_setSt (s : State) (b : Byte) (j : Nat) : (s.setSt b).indexed j = s.indexed j := rfl
@[simp] theorem State.getV_drawn (s : State) (q : Reg) : s.drawn.getV q = s.getV q := rfl
@[simp] theorem State.memRead_drawn (s : State) (d : Nat) : s.drawn.memRead d = s.memRead d := rfl
@[simp] theorem State.pixel_drawn (s : State) (j : Nat) : s.drawn.pixel j = s.pixel j := rfl
@[simp] theorem State.keyPressed_drawn (s : State) (j : Digit) : s.drawn.keyPressed j = s.keyPressed j := rfl
@[simp] theorem State.indexed_drawn (s : State) (j : Nat) : s.drawn.indexed j = s.indexed j := rfl
@[simp] theorem State.getV_memWrite (s : State) (a : Nat) (b : Byte) (q : Reg) : (s.memWrite a b).getV q = s.getV q := rfl
@[simp] theorem State.pixel_memWrite (s : State) (a : Nat) (b : Byte) (j : Nat) : (s.memWrite a b).pixel j = s.pixel j := rfl
@[simp] theorem State.keyPressed_memWrite (s : State) (a : Nat) (b : Byte) (j : Digit) : (s.memWrite a b).keyPressed j = s.keyPressed j := rfl
@[simp] theorem State.indexed_memWrite (s : State) (a : Nat) (b : Byte) (j : Nat) : (s.memWrite a b).indexed j = s.indexed j := rfl

/-! ### Registers -/

/-- A register reads what was last written to it (R12). -/
@[simp] theorem State.getV_setV (s : State) (r q : Reg) (b : Byte) :
    (s.setV r b).getV q = if q = r then b else s.getV q := by
  simp only [State.getV, State.setV, Vector.get_eq_getElem, Vector.getElem_set, Fin.ext_iff, eq_comm]

@[simp] theorem State.getV_setFlag (s : State) (f : Bool) (q : Reg) :
    (s.setFlag f).getV q = if q = VF then flagByte f else s.getV q := State.getV_setV s VF q (flagByte f)

/-- Writes to different registers commute. -/
theorem State.setV_comm (s : State) (q r : Reg) (a b : Byte) (h : q ≠ r) : (s.setV q a).setV r b = (s.setV r b).setV q a :=
  congrArg (fun v => { s with v := v }) (Vector.set_comm _ _ (by simpa [Fin.ext_iff] using h))

/-- The last write to a register is the one that counts. -/
@[simp] theorem State.setV_setV (s : State) (r : Reg) (a b : Byte) : (s.setV r a).setV r b = s.setV r b :=
  congrArg (fun v => { s with v := v }) (Vector.set_set ..)

/-- Register files that read alike are equal. -/
theorem State.v_ext (s t : State) (h : ∀ r, s.getV r = t.getV r) : s.v = t.v :=
  Vector.ext fun k hk => h ⟨k, hk⟩

/-- A stack entry reads what was last written to it (R21). -/
theorem State.stk_get_setStk (s : State) (k q : Fin 16) (w : Word) :
    (s.setStk k w).stk.get q = if q = k then w else s.stk.get q := by
  simp only [State.setStk, Vector.get_eq_getElem, Vector.getElem_set, Fin.ext_iff, eq_comm]

/-! ### How a step ends -/

/-- A status is told by its code (R112). -/
theorem Status.code_inj (a b : Status) : a.code = b.code ↔ a = b := by cases a <;> cases b <;> decide

/-- The codes are 0..3 (R112). -/
theorem Status.code_le (a : Status) : a.code ≤ 3 := by cases a <;> decide

/-- `finish` answers the state with status OK and the `changed` result, and nothing else. -/
theorem State.finish_eq (s : State) (c : Bool) : s.finish c = .next { s with status := .ok, changed := c } := rfl

/-- `raise` answers the state with the error status and `changed` = 0, and nothing else (R113). -/
theorem State.raise_eq (s : State) (e : Status) : s.raise e = .next { s with status := e, changed := false } := rfl

/-- `sequential` answers the state with PC + 2, status OK and `changed` = 0. -/
theorem State.sequential_eq (s : State) :
    s.sequential = .next { s with pc := s.pc + 2, status := .ok, changed := false } := rfl

/-- All a result-then-flag ending can do: the result in V[x], then the flag in VF, PC + 2, status OK (R13, R74). -/
theorem State.resultThenFlag_eq (s : State) (x : Reg) (b : Byte) (f : Bool) :
    s.resultThenFlag x b f =
      .next { (s.setV x b).setFlag f with pc := s.pc + 2, status := .ok, changed := false } := rfl

end Sys2Proof.Machine
end

