-- ==== Sys2Proof/Laws/Memory.lean ====
section
/-!
SUPPORT. Laws/Memory.lean: what the memory operations do, in every memory (canonical or not), and that each keeps the
canonical form.
-/

namespace Sys2Proof.Machine

/-- Memory as `reset` leaves it lists nothing and is canonical, whatever FONT is. -/
theorem Memory.wf_nil (font : Font) : Memory.wf font [] := by simp [Memory.wf]

/-- Below 80 `reset` installs FONT (R18). -/
theorem resetByte_font (font : Font) (k : Fin 80) : resetByte font k.val = font.get k := dif_pos k.isLt

/-- From 80 on `reset` installs zero (R18). -/
theorem resetByte_zero (font : Font) (a : Nat) (h : 80 ≤ a) : resetByte font a = 0 := dif_neg (Nat.not_lt.2 h)

/-- Every byte of a memory that lists nothing is what `reset` installs (R29). -/
theorem State.memRead_nil (s : State) (h : s.mem = []) (a : Nat) : s.memRead a = resetByte s.font (a % 4096) := by
  rw [State.memRead, h]
  rfl

theorem Memory.read_insert (font : Font) (m : Memory) (a b : Nat) (v : Byte) :
    Memory.read font (Memory.insert m a v) b = if b = a then v else Memory.read font m b := by
  induction m with
  | nil => rfl
  | cons c m ih =>
    obtain ⟨d, w⟩ := c
    simp only [Memory.insert]
    split
    · simp only [Memory.read]
    · split
      · subst_vars
        simp only [Memory.read]
        split <;> rfl
      · simp only [Memory.read, ih]
        split
        · subst_vars
          rw [if_neg (by omega)]
        · rfl

theorem Memory.read_erase (font : Font) (m : Memory) (a b : Nat) :
    Memory.read font (Memory.erase m a) b = if b = a then resetByte font a else Memory.read font m b := by
  induction m with
  | nil =>
    simp only [Memory.erase, List.filter_nil, Memory.read]
    split <;> simp_all
  | cons c m ih =>
    obtain ⟨d, w⟩ := c
    unfold Memory.erase at ih ⊢
    rw [List.filter_cons]
    by_cases h : d = a
    · subst h
      simp only [ne_eq, not_true_eq_false, decide_false, Bool.false_eq_true, if_false, Memory.read]
      rw [ih]
      split <;> rfl
    · simp only [ne_eq, h, not_false_eq_true, decide_true, if_true, Memory.read, ih]
      by_cases hb : b = d
      · subst hb
        simp [h]
      · simp [hb]

/-- A read after a write: the byte written at that address, the old byte everywhere else. -/
theorem Memory.read_write (font : Font) (m : Memory) (a b : Nat) (v : Byte) :
    Memory.read font (Memory.write font m a v) b = if b = a then v else Memory.read font m b := by
  unfold Memory.write
  split
  · rename_i h
    rw [Memory.read_erase, h]
  · exact Memory.read_insert font m a b v

theorem Memory.mem_insert (m : Memory) (a : Nat) (v : Byte) (c : Host.Cell) (h : c ∈ Memory.insert m a v) :
    c = (a, v) ∨ c ∈ m := by
  induction m with
  | nil => simpa [Memory.insert] using h
  | cons d m ih =>
    simp only [Memory.insert] at h
    split at h
    · simpa using h
    · split at h
      · rcases List.mem_cons.1 h with h | h
        · exact .inl h
        · exact .inr (List.mem_cons_of_mem _ h)
      · rcases List.mem_cons.1 h with h | h
        · exact .inr (h ▸ List.mem_cons_self)
        · exact (ih h).imp_right (List.mem_cons_of_mem _)

theorem Memory.insert_rising (m : Memory) (a : Nat) (v : Byte) (h : m.Pairwise (fun c d => c.1 < d.1)) :
    (Memory.insert m a v).Pairwise (fun c d => c.1 < d.1) := by
  induction m with
  | nil => simp [Memory.insert]
  | cons d m ih =>
    obtain ⟨hd, hm⟩ := List.pairwise_cons.1 h
    simp only [Memory.insert]
    split
    · rename_i hlt
      refine List.pairwise_cons.2 ⟨fun c hc => ?_, h⟩
      rcases List.mem_cons.1 hc with rfl | hc
      · exact hlt
      · exact Nat.lt_trans hlt (hd c hc)
    · split
      · rename_i heq
        exact List.pairwise_cons.2 ⟨fun c hc => heq ▸ hd c hc, hm⟩
      · refine List.pairwise_cons.2 ⟨fun c hc => ?_, ih hm⟩
        rcases Memory.mem_insert m a v c hc with rfl | hc
        · exact Nat.lt_of_le_of_ne (by omega) (by omega)
        · exact hd c hc

/-- A write keeps the canonical form. -/
theorem Memory.write_wf (font : Font) (m : Memory) (a : Nat) (v : Byte) (ha : a < 4096) (h : Memory.wf font m) :
    Memory.wf font (Memory.write font m a v) := by
  unfold Memory.write
  split
  · exact ⟨h.1.filter _, fun c hc => h.2 c (List.mem_filter.1 hc).1⟩
  · rename_i hv
    refine ⟨Memory.insert_rising m a v h.1, fun c hc => ?_⟩
    rcases Memory.mem_insert m a v c hc with rfl | hc
    · exact ⟨ha, hv⟩
    · exact h.2 c hc

/-- `MemRead` after `MemWrite` (R37, R38): addresses are compared mod 4096. -/
theorem State.memRead_memWrite (s : State) (a b : Nat) (v : Byte) :
    (s.memWrite a v).memRead b = if b % 4096 = a % 4096 then v else s.memRead b := Memory.read_write s.font s.mem _ _ v

/-- `MemWrite` keeps the canonical form, whatever the address. -/
theorem State.memWrite_wf (s : State) (a : Nat) (v : Byte) (h : Memory.wf s.font s.mem) : Memory.wf s.font (s.memWrite a v).mem :=
  Memory.write_wf s.font s.mem _ v (Nat.mod_lt _ (by decide)) h

/-- A byte of memory depends on its address mod 4096 only (R36). -/
theorem State.memRead_mod (s : State) (a : Nat) : s.memRead (a % 4096) = s.memRead a := by
  simp [State.memRead]

end Sys2Proof.Machine
end

