-- ==== Sys2Proof/Laws/Blocks.lean ====
section
/-!
SUPPORT. Laws/Blocks.lean: what the block transfers of LD [I],Vx and LD Vx,[I] do, and which registers a block holds.
-/

namespace Sys2Proof.Machine

/-- The registers of a block are exactly V[0..x] (R91). -/
theorem mem_regsUpTo (x r : Reg) : r ∈ regsUpTo x ↔ r ≤ x := by
  simp [regsUpTo]

theorem regsUpTo_nodup (x : Reg) : (regsUpTo x).Nodup := (List.nodup_finRange 16).filter _

/-- Different registers of a block have different addresses mod 4096. -/
theorem State.indexed_inj (s : State) (q r : Reg) (h : s.indexed q.val % 4096 = s.indexed r.val % 4096) : q = r := by
  have hq := q.isLt
  have hr := r.isLt
  simp only [State.indexed] at h
  exact Fin.ext (by omega)

/-- The stores of a block on any state `t`, with the addresses and values of `s`. -/
theorem State.storeFold_read (s : State) (rs : List Reg) (t : State) (b : Nat) (hn : rs.Nodup) :
    (∀ r ∈ rs, b % 4096 = s.indexed r.val % 4096 →
      (rs.foldl (fun t k => t.memWrite (s.indexed k.val) (s.getV k)) t).memRead b = s.getV r) ∧
    ((∀ r ∈ rs, b % 4096 ≠ s.indexed r.val % 4096) →
      (rs.foldl (fun t k => t.memWrite (s.indexed k.val) (s.getV k)) t).memRead b = t.memRead b) := by
  induction rs generalizing t with
  | nil => simp
  | cons q rs ih =>
    obtain ⟨hq, hrs⟩ := List.nodup_cons.1 hn
    have ⟨hit, miss⟩ := ih (t.memWrite (s.indexed q.val) (s.getV q)) hrs
    simp only [List.foldl_cons]
    refine ⟨fun r hr hb => ?_, fun h => ?_⟩
    · rcases List.mem_cons.1 hr with rfl | hr
      · rw [miss fun p hp hpb => hq (s.indexed_inj r p (hb ▸ hpb) ▸ hp), State.memRead_memWrite, if_pos hb]
      · exact hit r hr hb
    · rw [miss fun r hr => h r (List.mem_cons_of_mem _ hr), State.memRead_memWrite, if_neg (h q List.mem_cons_self)]

/-- A stored register is read back at its address (R91). -/
theorem State.memRead_storeRegs_hit (s : State) (rs : List Reg) (hn : rs.Nodup) (r : Reg) (hr : r ∈ rs) (b : Nat)
    (hb : b % 4096 = s.indexed r.val % 4096) : (s.storeRegs rs).memRead b = s.getV r :=
  (s.storeFold_read rs s b hn).1 r hr hb

/-- A byte outside the block is as before (R91). -/
theorem State.memRead_storeRegs_miss (s : State) (rs : List Reg) (hn : rs.Nodup) (b : Nat)
    (hb : ∀ r ∈ rs, b % 4096 ≠ s.indexed r.val % 4096) : (s.storeRegs rs).memRead b = s.memRead b :=
  (s.storeFold_read rs s b hn).2 hb

/-- A block store writes nothing but memory. -/
theorem State.storeFold_eq (s : State) (rs : List Reg) (t : State) :
    rs.foldl (fun t k => t.memWrite (s.indexed k.val) (s.getV k)) t =
      { t with mem := (rs.foldl (fun t k => t.memWrite (s.indexed k.val) (s.getV k)) t).mem } := by
  induction rs generalizing t with
  | nil => rfl
  | cons q rs ih =>
    rw [List.foldl_cons, ih]
    rfl

theorem State.storeRegs_eq (s : State) (rs : List Reg) : s.storeRegs rs = { s with mem := (s.storeRegs rs).mem } :=
  s.storeFold_eq rs s

/-- A block store keeps the canonical form. -/
theorem State.storeRegs_wf (s : State) (rs : List Reg) (h : Memory.wf s.font s.mem) :
    Memory.wf s.font (s.storeRegs rs).mem := by
  suffices ∀ t : State, Memory.wf t.font t.mem →
      Memory.wf t.font (rs.foldl (fun t k => t.memWrite (s.indexed k.val) (s.getV k)) t).mem from this s h
  induction rs with
  | nil => exact fun _ h => h
  | cons q rs ih => exact fun t ht => ih _ (t.memWrite_wf _ _ ht)

/-- What a block load leaves in a register: the byte at its address if it is in the block, else the old value (R92). -/
theorem State.getV_loadFold (s : State) (rs : List Reg) (t : State) (q : Reg) :
    (rs.foldl (fun t k => t.setV k (s.memRead (s.indexed k.val))) t).getV q =
      if q ∈ rs then s.memRead (s.indexed q.val) else t.getV q := by
  induction rs generalizing t with
  | nil => simp
  | cons r rs ih =>
    rw [List.foldl_cons, ih]
    by_cases h : q ∈ rs
    · simp [h]
    · by_cases hqr : q = r <;> simp [h, hqr]

theorem State.getV_loadRegs (s : State) (rs : List Reg) (q : Reg) :
    (s.loadRegs rs).getV q = if q ∈ rs then s.memRead (s.indexed q.val) else s.getV q := s.getV_loadFold rs s q

/-- A block load writes nothing but the registers. -/
theorem State.loadFold_eq (s : State) (rs : List Reg) (t : State) :
    rs.foldl (fun t k => t.setV k (s.memRead (s.indexed k.val))) t =
      { t with v := (rs.foldl (fun t k => t.setV k (s.memRead (s.indexed k.val))) t).v } := by
  induction rs generalizing t with
  | nil => rfl
  | cons q rs ih =>
    rw [List.foldl_cons, ih]
    rfl

theorem State.loadRegs_eq (s : State) (rs : List Reg) : s.loadRegs rs = { s with v := (s.loadRegs rs).v } :=
  s.loadFold_eq rs s

end Sys2Proof.Machine
end

