-- ==== Sys2Proof/Laws/Decode.lean ====
section
/-!
SUPPORT. Laws/Decode.lean: what each field of a word built from its fields reads (spec/30_encoding.md R49, R58); a proof about
decoding cites these and never unfolds a field.
-/

namespace Sys2Proof

/-- The operand types of `Instr` leave nothing ill-formed (R51). -/
theorem Instr.wellFormed_always (i : Instr) : i.wellFormed = true := by
  cases i <;>
    simp [Instr.wellFormed, Instr.line, Line.wellFormed, regFits, byteFits, addressFits, digitFits] <;> omega

/-- Every well-formed source line selects a row (R47, R56). -/
theorem Line.row?_isSome_of_wellFormed (l : Line) (h : l.wellFormed = true) : l.row?.isSome = true := by
  revert h
  fun_cases Line.wellFormed l <;> first | exact fun _ => rfl | exact fun h => nomatch h

/-! ### Formats I and X -/

@[simp] theorem fieldOp_wordXNN (op : Nat) (h : op < 16) (x : Reg) (nn : Byte) : fieldOp (wordXNN op x nn) = op := by
  simp only [fieldOp, wordXNN, BitVec.toNat_ofNat]
  omega

@[simp] theorem fieldX_wordXNN (op : Nat) (x : Reg) (nn : Byte) : fieldX (wordXNN op x nn) = x := by
  ext
  simp only [fieldX, wordXNN, BitVec.toNat_ofNat]
  omega

@[simp] theorem fieldNN_wordXNN (op : Nat) (x : Reg) (nn : Byte) : fieldNN (wordXNN op x nn) = nn := by
  apply BitVec.eq_of_toNat_eq
  simp only [fieldNN, wordXNN, BitVec.toNat_ofNat]
  omega

/-! ### Format R -/

@[simp] theorem fieldOp_wordXYN (op : Nat) (h : op < 16) (x y : Reg) (n : Digit) : fieldOp (wordXYN op x y n) = op := by
  simp only [fieldOp, wordXYN, BitVec.toNat_ofNat]
  omega

@[simp] theorem fieldX_wordXYN (op : Nat) (x y : Reg) (n : Digit) : fieldX (wordXYN op x y n) = x := by
  ext
  simp only [fieldX, wordXYN, BitVec.toNat_ofNat]
  omega

@[simp] theorem fieldY_wordXYN (op : Nat) (x y : Reg) (n : Digit) : fieldY (wordXYN op x y n) = y := by
  ext
  simp only [fieldY, wordXYN, BitVec.toNat_ofNat]
  omega

@[simp] theorem fieldN_wordXYN (op : Nat) (x y : Reg) (n : Digit) : fieldN (wordXYN op x y n) = n := by
  ext
  simp only [fieldN, wordXYN, BitVec.toNat_ofNat]
  omega

/-! ### Format A -/

@[simp] theorem fieldOp_wordNNN (op : Nat) (h : op < 16) (nnn : Imm12) : fieldOp (wordNNN op nnn) = op := by
  simp only [fieldOp, wordNNN, BitVec.toNat_ofNat]
  omega

@[simp] theorem fieldNNN_wordNNN (op : Nat) (nnn : Imm12) : fieldNNN (wordNNN op nnn) = nnn := by
  apply BitVec.eq_of_toNat_eq
  simp only [fieldNNN, wordNNN, BitVec.toNat_ofNat]
  omega

/-! ### The masks of the dispatch table (R47) -/

/-- The primary key: the word under 0xF000. -/
theorem land_F000 (w : Word) : (w &&& 0xF000#16).toNat = fieldOp w * 4096 := by
  have key : w &&& 0xF000#16 = (w >>> 12) <<< 12 := by
    ext i h
    simp only [BitVec.getElem_and, BitVec.getElem_shiftLeft]
    interval_cases i <;> simp
  rw [key, fieldOp]
  simp [BitVec.toNat_shiftLeft, BitVec.toNat_ushiftRight, Nat.shiftLeft_eq, Nat.shiftRight_eq_div_pow]
  omega

/-- A word under two masks with no bit in common is the sum of the two. -/
theorem land_add (w a b : Word) (h : a &&& b = 0) : w &&& (a ||| b) = (w &&& a) + (w &&& b) := by
  have disjoint : (w &&& a) &&& (w &&& b) = 0#16 := by
    rw [show (w &&& a) &&& (w &&& b) = w &&& (a &&& b) by ext; simp; grind, h]
    simp
  rw [BitVec.add_eq_or_of_and_eq_zero _ _ disjoint]
  ext
  simp
  grind

/-- Primary key and secondary key `nn`: the word under 0xF0FF. -/
theorem land_F0FF (w : Word) : (w &&& 0xF0FF#16).toNat = fieldOp w * 4096 + (fieldNN w).toNat := by
  have low : (w &&& 0x00FF#16).toNat = w.toNat % 256 := by
    simpa using Nat.and_two_pow_sub_one_eq_mod w.toNat 8
  rw [show 0xF0FF#16 = 0xF000#16 ||| 0x00FF#16 by decide, land_add w _ _ (by decide), BitVec.toNat_add, land_F000, low]
  simp only [fieldOp, fieldNN, BitVec.toNat_ofNat]
  omega

/-- Primary key and secondary key `n`: the word under 0xF00F. -/
theorem land_F00F (w : Word) : (w &&& 0xF00F#16).toNat = fieldOp w * 4096 + (fieldN w).val := by
  have low : (w &&& 0x000F#16).toNat = w.toNat % 16 := by
    simpa using Nat.and_two_pow_sub_one_eq_mod w.toNat 4
  rw [show 0xF00F#16 = 0xF000#16 ||| 0x000F#16 by decide, land_add w _ _ (by decide), BitVec.toNat_add, land_F000, low]
  simp only [fieldOp, fieldN]
  omega

/-! ### Bytes -/

/-- A word is put together again from its two bytes (R34). -/
theorem wordOfBytes_bytes (w : Word) :
    wordOfBytes (BitVec.ofNat 8 (w.toNat / 256)) (BitVec.ofNat 8 (w.toNat % 256)) = w := by
  apply BitVec.eq_of_toNat_eq
  simp only [wordOfBytes, BitVec.toNat_ofNat]
  omega

theorem wordOfBytes_toNat (hi lo : Byte) : (wordOfBytes hi lo).toNat = hi.toNat * 256 + lo.toNat := by
  simp only [wordOfBytes, BitVec.toNat_ofNat]
  omega

end Sys2Proof
end

