-- ==== Sys2Proof/Laws/Display.lean ====
section
/-!
SUPPORT. Laws/Display.lean: what the sprite engine does to the display, pixel by pixel.
-/

namespace Sys2Proof.Machine

/-- A pixel depends on its coordinates mod 64 and mod 32 only. -/
theorem pixelAt_mod (p : Vector PixelRow 32) (px py : Nat) : pixelAt p (px % 64) (py % 32) = pixelAt p px py := by
  simp [pixelAt]

/-- XOR of one pixel: that pixel is inverted, every other pixel is as before (R96). -/
theorem pixelAt_flipPixel (p : Vector PixelRow 32) (a b px py : Nat) :
    pixelAt (flipPixel p a b) px py = (pixelAt p px py != (px % 64 == a % 64 && py % 32 == b % 32)) := by
  have hx : px % 64 < 64 := Nat.mod_lt _ (by decide)
  simp only [pixelAt, flipPixel, Vector.get_eq_getElem, Vector.getElem_set]
  by_cases hy : py % 32 = b % 32
  · simp only [hy, if_true, BitVec.getLsbD_xor, BitVec.getLsbD_twoPow, beq_self_eq_true, Bool.and_true]
    congr 1
    rw [Bool.eq_iff_iff]
    simp only [Bool.and_eq_true, decide_eq_true_eq, beq_iff_eq]
    omega
  · have hy' : (py % 32 == b % 32) = false := by simpa using hy
    rw [hy', if_neg fun e => hy e.symm, Bool.and_false, Bool.bne_false]

/-- The targets of a sprite's set bits, in drawing order: rows ascending, columns ascending (R96). -/
def State.spriteTargets (s : State) (vx vy n : Nat) : List (Nat × Nat) :=
  (List.range n).flatMap fun row =>
    ((List.range 8).filter fun col => spriteBit (s.memRead (s.indexed row)) col).map fun col => (vx + col, vy + row)

/-- A drawing is its targets plotted one after the other. -/
theorem State.drawSprite_eq_plots (s : State) (vx vy n : Nat) :
    s.drawSprite vx vy n = (s.spriteTargets vx vy n).foldl (fun c t => c.plot t.1 t.2) ⟨s.pix, false, false⟩ := by
  simp only [State.drawSprite, State.spriteTargets, List.foldl_flatMap, Canvas.drawRow, List.foldl_map, List.foldl_filter]

theorem State.mem_spriteTargets (s : State) (vx vy n a b : Nat) :
    (a, b) ∈ s.spriteTargets vx vy n ↔
      ∃ row col, row < n ∧ col < 8 ∧ spriteBit (s.memRead (s.indexed row)) col = true ∧ vx + col = a ∧ vy + row = b := by
  simp only [State.spriteTargets, List.mem_flatMap, List.mem_map, List.mem_filter, List.mem_range, Prod.mk.injEq]
  constructor
  · rintro ⟨row, hr, col, ⟨hc, hb⟩, rfl, rfl⟩
    exact ⟨row, col, hr, hc, hb, rfl, rfl⟩
  · rintro ⟨row, col, hr, hc, hb, rfl, rfl⟩
    exact ⟨row, hr, col, ⟨hc, hb⟩, rfl, rfl⟩

theorem State.spriteTargets_nodup (s : State) (vx vy n : Nat) : (s.spriteTargets vx vy n).Nodup := by
  refine List.nodup_flatMap.2 ⟨fun row _ => ?_, ?_⟩
  · exact (List.nodup_range.filter _).map fun a b h => by simpa using h
  · refine List.nodup_range.imp fun {a b} hab => ?_
    intro p ha hb
    simp only [List.mem_map] at ha hb
    obtain ⟨_, _, rfl⟩ := ha
    obtain ⟨_, _, h⟩ := hb
    exact hab (by simpa using (congrArg Prod.snd h).symm)

/-- Targets are within 8 columns and 15 rows of each other, so different targets are different pixels (R97 c). -/
theorem State.spriteTargets_inj (s : State) (vx vy n : Nat) (hn : n < 16) (t : Nat × Nat)
    (ht : t ∈ s.spriteTargets vx vy n) (u : Nat × Nat) (hu : u ∈ s.spriteTargets vx vy n) (h1 : t.1 % 64 = u.1 % 64)
    (h2 : t.2 % 32 = u.2 % 32) : t = u := by
  obtain ⟨a, b⟩ := t
  obtain ⟨c, d⟩ := u
  obtain ⟨r, k, hr, hk, -, rfl, rfl⟩ := (s.mem_spriteTargets vx vy n a b).1 ht
  obtain ⟨r', k', hr', hk', -, rfl, rfl⟩ := (s.mem_spriteTargets vx vy n c d).1 hu
  simp only [Prod.mk.injEq] at h1 h2 ⊢
  omega

/-- What plotting pairwise different pixels does: each target is inverted once, nothing else changes; a hit is a target that was
on before; something is toggled when there is a target. -/
theorem Canvas.plots_spec (l : List (Nat × Nat)) (c : Canvas) (hn : l.Nodup)
    (inj : ∀ t ∈ l, ∀ u ∈ l, t.1 % 64 = u.1 % 64 → t.2 % 32 = u.2 % 32 → t = u) :
    (∀ px py, pixelAt (l.foldl (fun c t => c.plot t.1 t.2) c).pix px py =
      (pixelAt c.pix px py != l.any fun t => px % 64 == t.1 % 64 && py % 32 == t.2 % 32)) ∧
    (l.foldl (fun c t => c.plot t.1 t.2) c).hit = (c.hit || l.any fun t => pixelAt c.pix t.1 t.2) ∧
    (l.foldl (fun c t => c.plot t.1 t.2) c).toggled = (c.toggled || !l.isEmpty) := by
  induction l generalizing c with
  | nil => simp
  | cons t l ih =>
    obtain ⟨ht, hl⟩ := List.nodup_cons.1 hn
    have inj' : ∀ u ∈ l, ∀ w ∈ l, u.1 % 64 = w.1 % 64 → u.2 % 32 = w.2 % 32 → u = w := fun u hu w hw =>
      inj u (List.mem_cons_of_mem _ hu) w (List.mem_cons_of_mem _ hw)
    have far : ∀ u ∈ l, (u.1 % 64 == t.1 % 64 && u.2 % 32 == t.2 % 32) = false := fun u hu => by
      by_contra h
      simp only [Bool.not_eq_false, Bool.and_eq_true, beq_iff_eq] at h
      exact ht (inj u (List.mem_cons_of_mem _ hu) t List.mem_cons_self h.1 h.2 ▸ hu)
    obtain ⟨hp, hh, hg⟩ := ih (c.plot t.1 t.2) hl inj'
    simp only [List.foldl_cons, List.any_cons]
    refine ⟨fun px py => ?_, ?_, ?_⟩
    · rw [hp]
      simp only [Canvas.plot, pixelAt_flipPixel]
      by_cases h : (px % 64 == t.1 % 64 && py % 32 == t.2 % 32) = true
      · have : (l.any fun u => px % 64 == u.1 % 64 && py % 32 == u.2 % 32) = false := by
          rw [List.any_eq_false]
          intro u hu
          have := far u hu
          simp only [Bool.and_eq_true, beq_iff_eq] at h
          rw [h.1, h.2]
          simp only [Bool.and_eq_false_iff, beq_eq_false_iff_ne, Bool.and_eq_true, beq_iff_eq] at this ⊢
          rintro ⟨e1, e2⟩
          rcases this with h | h
          · exact h e1.symm
          · exact h e2.symm
        rw [this, h]
        simp
      · rw [Bool.not_eq_true] at h
        rw [h]
        simp
    · have same : ∀ u ∈ l, pixelAt (c.plot t.1 t.2).pix u.1 u.2 = pixelAt c.pix u.1 u.2 := fun u hu => by
        rw [Canvas.plot, pixelAt_flipPixel, far u hu, Bool.bne_false]
      have any_same : (l.any fun u => pixelAt (c.plot t.1 t.2).pix u.1 u.2) = l.any fun u => pixelAt c.pix u.1 u.2 := by
        rw [Bool.eq_iff_iff, List.any_eq_true, List.any_eq_true]
        exact exists_congr fun u => and_congr_right fun hu => by rw [same u hu]
      rw [hh, any_same]
      simp only [Canvas.plot, Bool.or_assoc]
    · rw [hg]
      simp [Canvas.plot]

theorem State.any_targets_iff (s : State) (vx vy n px py : Nat) :
    ((s.spriteTargets vx vy n).any fun t => px % 64 == t.1 % 64 && py % 32 == t.2 % 32) = true ↔
      s.spriteCovers vx vy n px py := by
  simp only [List.any_eq_true, Bool.and_eq_true, beq_iff_eq, Prod.exists, State.mem_spriteTargets, State.spriteCovers]
  constructor
  · rintro ⟨a, b, ⟨row, col, hr, hc, hb, rfl, rfl⟩, h1, h2⟩
    exact ⟨row, col, hr, hc, hb, h1, h2⟩
  · rintro ⟨row, col, hr, hc, hb, h1, h2⟩
    exact ⟨_, _, ⟨row, col, hr, hc, hb, rfl, rfl⟩, h1, h2⟩

/-- A drawn sprite inverts a pixel it covers. -/
theorem State.drawSprite_covered (s : State) (vx vy n px py : Nat) (hn : n < 16) (h : s.spriteCovers vx vy n px py) :
    pixelAt (s.drawSprite vx vy n).pix px py = !pixelAt s.pix px py := by
  rw [State.drawSprite_eq_plots,
    (Canvas.plots_spec _ _ (s.spriteTargets_nodup vx vy n) (s.spriteTargets_inj vx vy n hn)).1,
    (s.any_targets_iff vx vy n px py).2 h]
  simp

/-- A drawn sprite leaves a pixel it does not cover. -/
theorem State.drawSprite_uncovered (s : State) (vx vy n px py : Nat) (hn : n < 16) (h : ¬ s.spriteCovers vx vy n px py) :
    pixelAt (s.drawSprite vx vy n).pix px py = pixelAt s.pix px py := by
  rw [State.drawSprite_eq_plots,
    (Canvas.plots_spec _ _ (s.spriteTargets_nodup vx vy n) (s.spriteTargets_inj vx vy n hn)).1]
  rw [← s.any_targets_iff vx vy n px py, Bool.not_eq_true] at h
  rw [h]
  simp

/-- The collision: some covered pixel was on before (R96, R97 c). -/
theorem State.drawSprite_hit (s : State) (vx vy n : Nat) (hn : n < 16) :
    (s.drawSprite vx vy n).hit = true ↔ ∃ px py, s.spriteCovers vx vy n px py ∧ pixelAt s.pix px py = true := by
  rw [State.drawSprite_eq_plots,
    (Canvas.plots_spec _ _ (s.spriteTargets_nodup vx vy n) (s.spriteTargets_inj vx vy n hn)).2.1]
  simp only [Bool.false_or, List.any_eq_true, Prod.exists, State.mem_spriteTargets]
  constructor
  · rintro ⟨a, b, ⟨row, col, hr, hc, hb, rfl, rfl⟩, h⟩
    exact ⟨vx + col, vy + row, ⟨row, col, hr, hc, hb, rfl, rfl⟩, h⟩
  · rintro ⟨px, py, ⟨row, col, hr, hc, hb, h1, h2⟩, h⟩
    refine ⟨vx + col, vy + row, ⟨row, col, hr, hc, hb, rfl, rfl⟩, ?_⟩
    rwa [← pixelAt_mod, ← h1, ← h2, pixelAt_mod]

/-- A pixel is toggled when some sprite bit is 1 (R96). -/
theorem State.drawSprite_toggled (s : State) (vx vy n : Nat) (hn : n < 16) :
    (s.drawSprite vx vy n).toggled = true ↔
      ∃ row col, row < n ∧ col < 8 ∧ spriteBit (s.memRead (s.indexed row)) col = true := by
  rw [State.drawSprite_eq_plots,
    (Canvas.plots_spec _ _ (s.spriteTargets_nodup vx vy n) (s.spriteTargets_inj vx vy n hn)).2.2]
  simp only [Bool.false_or, Bool.not_eq_true', List.isEmpty_eq_false_iff_exists_mem, Prod.exists, State.mem_spriteTargets]
  constructor
  · rintro ⟨_, _, row, col, hr, hc, hb, -, -⟩
    exact ⟨row, col, hr, hc, hb⟩
  · rintro ⟨row, col, hr, hc, hb⟩
    exact ⟨_, _, row, col, hr, hc, hb, rfl, rfl⟩

end Sys2Proof.Machine
end

