-- ==== Sys2Proof/Laws/Operands.lean ====
section
/-!
SUPPORT. Laws/Operands.lean: what the operand forms read, as plain numbers, and which key LD Vx,K finds.
-/

namespace Sys2Proof.Machine

/-- Zero extension keeps the number (R51). -/
@[simp] theorem zextAddress_toNat (nnn : Imm12) : (zextAddress nnn).toNat = nnn.toNat := by
  simp only [zextAddress, BitVec.toNat_setWidth]
  omega

@[simp] theorem zextByte_toNat (b : Byte) : (zextByte b).toNat = b.toNat := by
  simp only [zextByte, BitVec.toNat_setWidth]
  omega

/-- The glyph address is 5·V[x]; it fits 16 bits for every byte (R89). -/
@[simp] theorem glyphAddress_toNat (b : Byte) : (glyphAddress b).toNat = 5 * b.toNat := by
  simp only [glyphAddress, Config.glyphBytes, BitVec.toNat_ofNat]
  omega

@[simp] theorem hundreds_toNat (b : Byte) : (hundreds b).toNat = b.toNat / 100 := by
  simp only [hundreds, BitVec.toNat_ofNat]
  omega

@[simp] theorem tens_toNat (b : Byte) : (tens b).toNat = b.toNat / 10 % 10 := by
  simp only [tens, BitVec.toNat_ofNat]
  omega

@[simp] theorem ones_toNat (b : Byte) : (ones b).toNat = b.toNat % 10 := by
  simp only [ones, BitVec.toNat_ofNat]
  omega

@[simp] theorem pastBlock_toNat (s : State) (x : Reg) : (s.pastBlock x).toNat = (s.i.toNat + x.val + 1) % 65536 := by
  simp only [State.pastBlock, BitVec.toNat_add, BitVec.toNat_ofNat]
  omega

/-- LD Vx,K finds key k exactly when k is pressed and no lesser key is (R103). -/
theorem State.lowestKey_eq_some (s : State) (k : Digit) :
    s.lowestKey = some k ↔ s.keyPressed k = true ∧ ∀ j, j < k → s.keyPressed j = false := by
  have sorted : (List.finRange 16).Pairwise (· < ·) := by decide
  constructor
  · intro h
    refine ⟨List.find?_some h, fun j hj => ?_⟩
    obtain ⟨-, before, after, hl, hb⟩ := List.find?_eq_some_iff_append.1 h
    have hmem : j ∈ before ++ k :: after := hl ▸ List.mem_finRange j
    rw [hl, List.pairwise_append, List.pairwise_cons] at sorted
    rcases List.mem_append.1 hmem with hm | hm
    · simpa using hb j hm
    · rcases List.mem_cons.1 hm with rfl | hm
      · exact absurd hj (lt_irrefl _)
      · exact absurd hj (lt_asymm (sorted.2.1.1 j hm))
  · rintro ⟨hk, hlt⟩
    cases h : s.lowestKey with
    | none => exact absurd hk (by simpa using List.find?_eq_none.1 h k (List.mem_finRange k))
    | some m =>
      have hm : s.keyPressed m = true := List.find?_some h
      obtain ⟨-, before, after, hl, hb⟩ := List.find?_eq_some_iff_append.1 h
      have hmem : k ∈ before ++ m :: after := hl ▸ List.mem_finRange k
      rw [hl, List.pairwise_append, List.pairwise_cons] at sorted
      rcases List.mem_append.1 hmem with hkb | hkb
      · exact absurd hk (by simpa using hb k hkb)
      · rcases List.mem_cons.1 hkb with rfl | hka
        · rfl
        · exact absurd (hlt m (sorted.2.1.1 k hka)) (by simp [hm])

/-- LD Vx,K finds none exactly when no key is pressed (R103). -/
theorem State.lowestKey_eq_none (s : State) : s.lowestKey = none ↔ ∀ k, s.keyPressed k = false := by
  simp [State.lowestKey]

end Sys2Proof.Machine
end

