-- ==== Sys2Proof/Laws/PerInstr.lean ====
section
/-!
SUPPORT. Laws/PerInstr.lean: a statement made instruction by instruction: the encoding of an instruction matches its own row of
spec/opcode_table.json (spec/30_encoding.md rule R47), that is, the word under the row's mask is the row's match.
-/

namespace Sys2Proof

namespace Laws.MatchesItsRow

/-- The encoding of the instruction, under its row's mask, is its row's match. -/
def Statement (i : Instr) : Prop := encode i &&& rowMask i = rowMatch i

/-- For a row keyed on `op` alone, the word's `op` decides. -/
theorem of_op {w : Word} {op : Nat} (h : fieldOp w = op) : w &&& 0xF000#16 = BitVec.ofNat 16 (op * 4096) := by
  apply BitVec.eq_of_toNat_eq
  rw [land_F000, h, BitVec.toNat_ofNat]
  have := w.isLt
  simp only [fieldOp] at h
  omega

theorem cls : Statement .cls := by unfold Statement; decide
theorem ret : Statement .ret := by unfold Statement; decide
theorem sys : Statement .sys := by unfold Statement; decide
theorem jp (nnn : Imm12) : Statement (.jp nnn) := of_op (fieldOp_wordNNN _ (by decide) ..)
theorem call (nnn : Imm12) : Statement (.call nnn) := of_op (fieldOp_wordNNN _ (by decide) ..)
theorem seImm (x : Reg) (nn : Byte) : Statement (.seImm x nn) := of_op (fieldOp_wordXNN _ (by decide) ..)
theorem sneImm (x : Reg) (nn : Byte) : Statement (.sneImm x nn) := of_op (fieldOp_wordXNN _ (by decide) ..)
theorem seReg (x y : Reg) : Statement (.seReg x y) := of_op (fieldOp_wordXYN _ (by decide) ..)
theorem ldImm (x : Reg) (nn : Byte) : Statement (.ldImm x nn) := of_op (fieldOp_wordXNN _ (by decide) ..)
theorem addImm (x : Reg) (nn : Byte) : Statement (.addImm x nn) := of_op (fieldOp_wordXNN _ (by decide) ..)
theorem ldReg (x y : Reg) : Statement (.ldReg x y) := by
  revert x y; unfold Statement; decide
theorem orReg (x y : Reg) : Statement (.orReg x y) := by
  revert x y; unfold Statement; decide
theorem andReg (x y : Reg) : Statement (.andReg x y) := by
  revert x y; unfold Statement; decide
theorem xorReg (x y : Reg) : Statement (.xorReg x y) := by
  revert x y; unfold Statement; decide
theorem addReg (x y : Reg) : Statement (.addReg x y) := by
  revert x y; unfold Statement; decide
theorem subReg (x y : Reg) : Statement (.subReg x y) := by
  revert x y; unfold Statement; decide
theorem shr (x : Reg) : Statement (.shr x) := by
  revert x; unfold Statement; decide
theorem subnReg (x y : Reg) : Statement (.subnReg x y) := by
  revert x y; unfold Statement; decide
theorem shl (x : Reg) : Statement (.shl x) := by
  revert x; unfold Statement; decide
theorem sneReg (x y : Reg) : Statement (.sneReg x y) := of_op (fieldOp_wordXYN _ (by decide) ..)
theorem ldI (nnn : Imm12) : Statement (.ldI nnn) := of_op (fieldOp_wordNNN _ (by decide) ..)
theorem jpV0 (nnn : Imm12) : Statement (.jpV0 nnn) := of_op (fieldOp_wordNNN _ (by decide) ..)
theorem rnd (x : Reg) (nn : Byte) : Statement (.rnd x nn) := of_op (fieldOp_wordXNN _ (by decide) ..)
theorem drw (x y : Reg) (n : Digit) : Statement (.drw x y n) := of_op (fieldOp_wordXYN _ (by decide) ..)
theorem skp (x : Reg) : Statement (.skp x) := by
  revert x; unfold Statement; decide
theorem sknp (x : Reg) : Statement (.sknp x) := by
  revert x; unfold Statement; decide
theorem ldVxDT (x : Reg) : Statement (.ldVxDT x) := by
  revert x; unfold Statement; decide
theorem ldVxK (x : Reg) : Statement (.ldVxK x) := by
  revert x; unfold Statement; decide
theorem ldDTVx (x : Reg) : Statement (.ldDTVx x) := by
  revert x; unfold Statement; decide
theorem ldSTVx (x : Reg) : Statement (.ldSTVx x) := by
  revert x; unfold Statement; decide
theorem addIVx (x : Reg) : Statement (.addIVx x) := by
  revert x; unfold Statement; decide
theorem ldFVx (x : Reg) : Statement (.ldFVx x) := by
  revert x; unfold Statement; decide
theorem ldBVx (x : Reg) : Statement (.ldBVx x) := by
  revert x; unfold Statement; decide
theorem ldMemVx (x : Reg) : Statement (.ldMemVx x) := by
  revert x; unfold Statement; decide
theorem ldVxMem (x : Reg) : Statement (.ldVxMem x) := by
  revert x; unfold Statement; decide

end Laws.MatchesItsRow

end Sys2Proof
end

