-- ==== Sys2Proof/Laws/Transactions.lean ====
section
/-!
SUPPORT. Laws/Transactions.lean: what the host's transactions do to each view of the state.
-/

namespace Sys2Proof.Machine

/-! ### Reset -/

/-- All `reset` answers: the state after reset of a core with the same FONT, with the count of draws going on (R129). -/
theorem State.hostReset_eq (s : State) : s.hostReset = { State.resetWith s.font with draws := s.draws } := rfl

/-- Memory after `reset`: FONT and zero (R18, R29). -/
theorem State.memRead_hostReset (s : State) (a : Nat) : s.hostReset.memRead a = resetByte s.font (a % 4096) :=
  s.hostReset.memRead_nil rfl a

/-! ### Program load -/

/-- Copying bytes writes nothing but memory (R131). -/
theorem State.storeBytes_eq (s : State) (a : Nat) (bs : List Byte) :
    s.storeBytes a bs = { s with mem := (s.storeBytes a bs).mem } := by
  induction bs generalizing s a with
  | nil => rfl
  | cons b bs ih =>
    rw [State.storeBytes, ih]
    rfl

/-- Copying bytes keeps the canonical form. -/
theorem State.storeBytes_wf (s : State) (a : Nat) (bs : List Byte) (h : Memory.wf s.font s.mem) :
    Memory.wf s.font (s.storeBytes a bs).mem := by
  induction bs generalizing s a with
  | nil => exact h
  | cons b bs ih => exact ih _ _ (s.memWrite_wf _ _ h)

/-- A byte outside the range copied to is as before; the range does not wrap (R131). -/
theorem State.memRead_storeBytes_miss (s : State) (a : Nat) (bs : List Byte) (c : Nat) (hfit : a + bs.length ≤ 4096)
    (hc : c % 4096 < a ∨ a + bs.length ≤ c % 4096) : (s.storeBytes a bs).memRead c = s.memRead c := by
  induction bs generalizing s a with
  | nil => rfl
  | cons b bs ih =>
    simp only [List.length_cons] at hfit hc
    rw [State.storeBytes, ih _ _ (by omega) (by omega), State.memRead_memWrite, if_neg (by omega)]

/-- Byte k of what is copied is read back at its address (R131). -/
theorem State.memRead_storeBytes_hit (s : State) (a : Nat) (bs : List Byte) (k : Nat) (hk : k < bs.length)
    (hfit : a + bs.length ≤ 4096) : (s.storeBytes a bs).memRead (a + k) = bs[k] := by
  induction bs generalizing s a k with
  | nil => exact absurd hk (Nat.not_lt_zero k)
  | cons b bs ih =>
    simp only [List.length_cons] at hfit hk
    rw [State.storeBytes]
    cases k with
    | zero =>
      rw [State.memRead_storeBytes_miss _ _ _ _ (by omega) (by omega), State.memRead_memWrite, if_pos (by rw [Nat.add_zero])]
      rfl
    | succ k =>
      have := ih (s.memWrite a b) (a + 1) k (by omega) (by omega)
      rw [show a + (k + 1) = a + 1 + k by omega, this]
      rfl

/-- All a load can answer: RomTooLarge above 3584 bytes, else the copy (R117, R131). -/
theorem State.loadProgram_eq (s : State) (image : List Byte) :
    s.loadProgram image = if 3584 < image.length then .error .romTooLarge else .ok (s.storeBytes 0x200 image) := rfl

/-! ### Tick, keys, redraw flag -/

/-- A timer counts down by one and stays at 0 (R108). -/
theorem countDown_toNat (b : Byte) : (countDown b).toNat = b.toNat - 1 := by
  unfold countDown
  split
  · subst_vars
    rfl
  · rename_i h
    have : b.toNat ≠ 0 := fun e => h (BitVec.eq_of_toNat_eq (by simpa using e))
    have := b.isLt
    rw [BitVec.toNat_sub, show (1 : Byte).toNat = 1 from rfl]
    omega

/-- A tick touches the timers alone (R108). -/
theorem State.tick_eq (s : State) : s.tick = ({ s with dt := countDown s.dt, st := countDown s.st }, s.st == 1) := rfl

/-- A key reads what was last set; the other keys are as before (R110). -/
theorem State.keyPressed_setKey (s : State) (k j : Digit) (p : Bool) :
    (s.setKey k p).keyPressed j = if j = k then p else s.keyPressed j := by
  simp only [State.keyPressed, State.setKey, Vector.get_eq_getElem, Vector.getElem_set, Fin.ext_iff, eq_comm]

/-- Setting a key changes the latch alone (R110). -/
theorem State.setKey_eq (s : State) (k : Digit) (p : Bool) : s.setKey k p = { s with key := (s.setKey k p).key } := rfl

/-- Clearing the redraw flag changes RP alone (R99). -/
theorem State.clearRedraw_eq (s : State) : s.clearRedraw = { s with rp := false } := rfl

end Sys2Proof.Machine
end

