-- ==== Sys2Proof/Tests/Slice0.lean ====
section
/-!
SUPPORT. Tests/Slice0.lean: small tests of one step each, with expected results from spec/95_test_vectors.md (the vector's id is
in each test's comment) or computed by hand from the rule named, and a witness for the hypotheses of every statement that has any.
-/

namespace Sys2Proof.Tests

open Sys2Proof.Machine

/-! ## Helpers -/

/-- The reset state with a word where the first step fetches. -/
def at200 (w : Nat) : State := State.reset.withFetchWord 16 w

/-- The next state of a step, to look at some of its fields. -/
def after (s : State) : Option State :=
  match step s with
  | .next t => some t
  | _ => none

/-- A view of the state after a step. -/
def sees (s : State) (view : State → Bool) : Bool := ((after s).map view).getD false

/-- A state with some memory bytes written. -/
def withBytes (s : State) (bytes : List (Nat × Byte)) : State := bytes.foldl (fun t c => t.memWrite c.1 c.2) s

/-! ## WellFormed: an ill-formed line for each check, which the check refuses (R51, R56) -/

theorem test_wf_register_16 : Line.wellFormed ⟨.ld, [.v 16, .num 5]⟩ = false := by decide
theorem test_wf_second_register_16 : Line.wellFormed ⟨.or, [.v 1, .v 16]⟩ = false := by decide
theorem test_wf_byte_256 : Line.wellFormed ⟨.add, [.v 0, .num 256]⟩ = false := by decide
theorem test_wf_address_4096 : Line.wellFormed ⟨.call, [.num 4096]⟩ = false := by decide
theorem test_wf_height_16 : Line.wellFormed ⟨.drw, [.v 0, .v 1, .num 16]⟩ = false := by decide
theorem test_wf_jump_base_not_v0 : Line.wellFormed ⟨.jp, [.v 1, .num 0x300]⟩ = false := by decide
theorem test_wf_no_such_shape : Line.wellFormed ⟨.add, [.i, .num 1]⟩ = false := by decide
theorem test_wf_limits :
    Line.wellFormed ⟨.ld, [.v 15, .num 255]⟩ = true ∧ Line.wellFormed ⟨.call, [.num 4095]⟩ = true ∧
    Line.wellFormed ⟨.drw, [.v 15, .v 15, .num 15]⟩ = true ∧ Line.wellFormed ⟨.jp, [.v 0, .num 4095]⟩ = true := by decide

/-- P1's listing assembles to its bytes (95_test_vectors.md P1). -/
theorem test_assemble_p1 :
    assemble ⟨.ld, [.v 0, .num 5]⟩ = some 0x6005 ∧ assemble ⟨.add, [.v 0, .num 3]⟩ = some 0x7003 ∧
    assemble ⟨.ld, [.v 16, .num 5]⟩ = none := by decide

/-! ## Decode: every row by a word written out from its pattern (R47) -/

theorem test_decode_group_0 :
    decodeWord 0b0000_0000_1110_0000 = .ok .cls ∧ decodeWord 0b0000_0000_1110_1110 = .ok .ret ∧
    decodeWord 0b0000_0000_0000_0000 = .ok .sys := by decide

theorem test_decode_jumps :
    decodeWord 0b0001_0010_0011_0100 = .ok (.jp 0x234) ∧ decodeWord 0b0010_1010_1011_1100 = .ok (.call 0xABC) ∧
    decodeWord 0b1011_0011_0000_0000 = .ok (.jpV0 0x300) := by decide

theorem test_decode_skips :
    decodeWord 0b0011_0011_0010_1010 = .ok (.seImm 3 0x2A) ∧ decodeWord 0b0100_0011_0010_1011 = .ok (.sneImm 3 0x2B) ∧
    decodeWord 0b0101_0001_0010_0000 = .ok (.seReg 1 2) ∧ decodeWord 0b1001_0001_0010_0000 = .ok (.sneReg 1 2) := by decide

theorem test_decode_immediates :
    decodeWord 0b0110_0000_0000_0101 = .ok (.ldImm 0 5) ∧ decodeWord 0b0111_0000_0000_0011 = .ok (.addImm 0 3) ∧
    decodeWord 0b1100_0011_0000_1111 = .ok (.rnd 3 0x0F) := by decide

theorem test_decode_group_8 :
    decodeWord 0b1000_0001_0010_0000 = .ok (.ldReg 1 2) ∧ decodeWord 0b1000_0001_0010_0001 = .ok (.orReg 1 2) ∧
    decodeWord 0b1000_0001_0010_0010 = .ok (.andReg 1 2) ∧ decodeWord 0b1000_0001_0010_0011 = .ok (.xorReg 1 2) ∧
    decodeWord 0b1000_0001_0010_0100 = .ok (.addReg 1 2) ∧ decodeWord 0b1000_0001_0010_0101 = .ok (.subReg 1 2) ∧
    decodeWord 0b1000_1010_0000_0110 = .ok (.shr 10) ∧ decodeWord 0b1000_0001_0010_0111 = .ok (.subnReg 1 2) ∧
    decodeWord 0b1000_1010_0000_1110 = .ok (.shl 10) := by decide

theorem test_decode_index_and_display :
    decodeWord 0b1010_0010_0101_0000 = .ok (.ldI 0x250) ∧ decodeWord 0b1101_0001_0010_0101 = .ok (.drw 1 2 5) := by decide

theorem test_decode_keys :
    decodeWord 0b1110_0010_1001_1110 = .ok (.skp 2) ∧ decodeWord 0b1110_0010_1010_0001 = .ok (.sknp 2) := by decide

theorem test_decode_group_F :
    decodeWord 0b1111_0001_0000_0111 = .ok (.ldVxDT 1) ∧ decodeWord 0b1111_0010_0000_1010 = .ok (.ldVxK 2) ∧
    decodeWord 0b1111_0011_0001_0101 = .ok (.ldDTVx 3) ∧ decodeWord 0b1111_0100_0001_1000 = .ok (.ldSTVx 4) ∧
    decodeWord 0b1111_0101_0001_1110 = .ok (.addIVx 5) ∧ decodeWord 0b1111_0110_0010_1001 = .ok (.ldFVx 6) ∧
    decodeWord 0b1111_0111_0011_0011 = .ok (.ldBVx 7) ∧ decodeWord 0b1111_1000_0101_0101 = .ok (.ldMemVx 8) ∧
    decodeWord 0b1111_1001_0110_0101 = .ok (.ldVxMem 9) := by decide

/-- UK1 to UK9 (T4): one unknown word of each group at the edges of its keys. -/
theorem test_decode_unknown :
    decodeWord 0x0123 = .error (.unknownOpcode 0x0123) ∧ decodeWord 0x00E1 = .error (.unknownOpcode 0x00E1) ∧
    decodeWord 0x8008 = .error (.unknownOpcode 0x8008) ∧ decodeWord 0x801F = .error (.unknownOpcode 0x801F) ∧
    decodeWord 0xE19F = .error (.unknownOpcode 0xE19F) ∧ decodeWord 0xF075 = .error (.unknownOpcode 0xF075) ∧
    decodeWord 0xF090 = .error (.unknownOpcode 0xF090) := by decide

/-- The bytes are big-endian and what follows is left (R34); one byte is no instruction (R48). -/
theorem test_decode_bytes :
    decodeBytes [0x60, 0x05, 0x70] = .ok (.ldImm 0 5, [0x70]) ∧ decodeBytes [0x60] = .error (.truncated [0x60]) ∧
    decodeTableWord 16 0x6005 = some (.ldImm 0 5) ∧ decodeTableWord 16 0x8008 = none := by decide

/-- R60: a word that matches no row is printed as itself; a not-decoded digit is not printed. -/
theorem test_disassemble :
    disassemble 0x0123 = .word 0x0123 ∧ disassemble 0x5121 = .line ⟨.se, [.v 1, .v 2]⟩ ∧
    (disassemble 0x5121).assemble? = some 0x5120 := by decide

/-! ## Fetch and memory -/

/-- W1: the second byte is fetched from address 0. -/
theorem test_fetch_wraps :
    sees { withBytes State.reset [(0xFFF, 0x61), (0, 0x2A)] with pc := 0xFFF } (fun t => t.getV 1 == 0x2A && t.pc == 0x1001) := by
  decide

/-- W3: an odd PC fetches the two bytes there. -/
theorem test_fetch_odd :
    sees { withBytes State.reset [(0x200, 0x12), (0x201, 0x63), (0x202, 9)] with pc := 0x201 }
      (fun t => t.getV 3 == 9 && t.pc == 0x203) := by
  decide

/-- W4: PC = 0x1000 fetches the font's first word, an unknown opcode; PC stays. -/
theorem test_fetch_above_memory :
    after { State.reset with pc := 0x1000 } = some { State.reset with pc := 0x1000, status := .unknownOpcode } := by decide

/-- The canonical form: writing the value an unlisted address reads as removes the entry. -/
theorem test_memory_canonical :
    ((State.reset.memWrite 5 7).memWrite 5 0x20).mem = [] ∧ (State.reset.memWrite 0x1300 0).mem = [] ∧
    ((State.reset.memWrite 0x301 1).memWrite 0x300 2).mem = [(0x300, 2), (0x301, 1)] := by decide

/-! ## Control flow (T1) -/

/-- F22 and F23. -/
theorem test_sys : after (at200 0x0A00) = some { at200 0x0A00 with pc := 0x202 } := by decide

/-- F1. -/
theorem test_jp : sees (at200 0x1234) (fun t => t.pc == 0x234) := by decide

/-- F2: a jump to itself changes nothing. -/
theorem test_jp_self : after (at200 0x1200) = some (at200 0x1200) := by decide

/-- F4: the sum is not reduced. -/
theorem test_jpV0 : sees { at200 0xBFFF with v := State.reset.v.set 0 0xFF } (fun t => t.pc == 0x10FE) := by decide

/-- F10: the 16th frame is legal. -/
theorem test_call :
    sees { (at200 0x2ABC) with sp := 15 } (fun t => t.stk.get 15 == 0x200 && t.sp == 16 && t.pc == 0xABC) := by decide

/-- F9: the 17th raises. -/
theorem test_call_overflow :
    after { at200 0x2400 with sp := 16 } = some { at200 0x2400 with sp := 16, status := .stackOverflow } := by decide

/-- F7: the popped address + 2 wraps; the entry stays. -/
theorem test_ret :
    sees { at200 0x00EE with sp := 1, stk := State.reset.stk.set 0 0xFFFE }
      (fun t => t.pc == 0 && t.sp == 0 && t.stk.get 0 == 0xFFFE) := by decide

/-- F8. -/
theorem test_ret_underflow : after (at200 0x00EE) = some { at200 0x00EE with status := .stackUnderflow } := by decide

/-- F11, F12. -/
theorem test_seImm : sees { at200 0x332A with v := State.reset.v.set 3 0x2A } (fun t => t.pc == 0x204) ∧
    sees { at200 0x332B with v := State.reset.v.set 3 0x2A } (fun t => t.pc == 0x202) := by decide

/-- F13, F14. -/
theorem test_sneImm : sees { at200 0x432A with v := State.reset.v.set 3 0x2A } (fun t => t.pc == 0x202) ∧
    sees { at200 0x432B with v := State.reset.v.set 3 0x2A } (fun t => t.pc == 0x204) := by decide

/-- F16, F17: n is not decoded. -/
theorem test_seReg : sees { at200 0x5121 with v := (State.reset.v.set 1 7).set 2 8 } (fun t => t.pc == 0x202) ∧
    sees { at200 0x512F with v := (State.reset.v.set 1 7).set 2 7 } (fun t => t.pc == 0x204) := by decide

/-- F18, F19. -/
theorem test_sneReg : sees { at200 0x9120 with v := (State.reset.v.set 1 7).set 2 8 } (fun t => t.pc == 0x204) ∧
    sees { at200 0x9110 with v := State.reset.v.set 1 7 } (fun t => t.pc == 0x202) := by decide

/-- F21: PC + 4 wraps at 16 bits. -/
theorem test_skip_wraps :
    sees { withBytes State.reset [(0xFFE, 0x30), (0xFFF, 0x00)] with pc := 0xFFFE } (fun t => t.pc == 2) := by decide

/-! ## Loads, arithmetic, logic, shifts (T2, T3) -/

/-- F20: PC + 2 wraps at 16 bits. -/
theorem test_ldImm : sees { withBytes State.reset [(0xFFE, 0x60), (0xFFF, 0x05)] with pc := 0xFFFE }
    (fun t => t.getV 0 == 5 && t.pc == 0) := by decide

/-- A1: wraps, VF untouched. -/
theorem test_addImm : sees { at200 0x7101 with v := (State.reset.v.set 1 0xFF).set 15 0x55 }
    (fun t => t.getV 1 == 0 && t.getV 15 == 0x55) := by decide

/-- O5. -/
theorem test_ldReg : sees { at200 0x8120 with v := State.reset.v.set 2 0x9C } (fun t => t.getV 1 == 0x9C) := by decide

/-- O1: VF is not reset. -/
theorem test_orReg : sees { at200 0x8121 with v := ((State.reset.v.set 1 0xF0).set 2 0x0C).set 15 0x33 }
    (fun t => t.getV 1 == 0xFC && t.getV 15 == 0x33) := by decide

/-- O2. -/
theorem test_andReg : sees { at200 0x8122 with v := ((State.reset.v.set 1 0xF0).set 2 0x3C).set 15 0x33 }
    (fun t => t.getV 1 == 0x30 && t.getV 15 == 0x33) := by decide

/-- O3. -/
theorem test_xorReg : sees { at200 0x8123 with v := ((State.reset.v.set 1 0xF0).set 2 0x3C).set 15 0x33 }
    (fun t => t.getV 1 == 0xCC && t.getV 15 == 0x33) := by decide

/-- A7: y = F, the old VF is the operand. -/
theorem test_addReg : sees { at200 0x81F4 with v := (State.reset.v.set 1 0xF0).set 15 0x20 }
    (fun t => t.getV 1 == 0x10 && t.getV 15 == 1) := by decide

/-- A6: x = F, the flag wins. -/
theorem test_addReg_flag_wins : sees { at200 0x8F24 with v := (State.reset.v.set 15 1).set 2 2 } (fun t => t.getV 15 == 0) := by
  decide

/-- S2. -/
theorem test_subReg_borrow : sees { at200 0x8125 with v := ((State.reset.v.set 1 5).set 2 6).set 15 1 }
    (fun t => t.getV 1 == 0xFF && t.getV 15 == 0) := by decide

/-- S1: equal operands, no borrow. -/
theorem test_subReg_equal : sees { at200 0x8125 with v := (State.reset.v.set 1 5).set 2 5 }
    (fun t => t.getV 1 == 0 && t.getV 15 == 1) := by decide

/-- H2: y is not decoded. -/
theorem test_shr : sees { at200 0x8126 with v := ((State.reset.v.set 1 4).set 2 0xFF).set 15 1 }
    (fun t => t.getV 1 == 2 && t.getV 2 == 0xFF && t.getV 15 == 0) := by decide

/-- H3: x = F. -/
theorem test_shr_flag_wins : sees { at200 0x8F06 with v := State.reset.v.set 15 3 } (fun t => t.getV 15 == 1) := by decide

/-- SN1. -/
theorem test_subnReg : sees { at200 0x8127 with v := (State.reset.v.set 1 5).set 2 6 }
    (fun t => t.getV 1 == 1 && t.getV 15 == 1) := by decide

/-- L1. -/
theorem test_shl : sees { at200 0x810E with v := State.reset.v.set 1 0x81 } (fun t => t.getV 1 == 2 && t.getV 15 == 1) := by decide

/-- L4: x = F, the result is lost. -/
theorem test_shl_flag_wins : sees { at200 0x8F0E with v := State.reset.v.set 15 0x7F } (fun t => t.getV 15 == 0) := by decide

/-- RN2: a mask of 0 gives 0 for every draw. -/
theorem test_rnd_mask_zero : (match step { at200 0xC300 with v := State.reset.v.set 3 0x55 } with
    | .next t => t.getV 3 | _ => 1) = 0 := by
  show Config.rnd 0 &&& 0 = 0
  exact BitVec.and_zero

/-- R86: the draw is taken once. -/
theorem test_rnd_counts_draw : sees (at200 0xC30F) (fun t => t.draws == 1 && t.pc == 0x202) := by decide

/-! ## Index register and memory (T5) -/

/-- I2: the top 4 bits are cleared. -/
theorem test_ldI : sees { at200 0xAFFF with i := 0x1234 } (fun t => t.i == 0xFFF) := by decide

/-- I5: the flag is from the unbounded sum. -/
theorem test_addIVx : sees { at200 0xF21E with i := 0xFFFF, v := State.reset.v.set 2 1 }
    (fun t => t.i == 0 && t.getV 15 == 1) := by decide

/-- I6: x = F, the old VF is added. -/
theorem test_addIVx_flag : sees { at200 0xFF1E with i := 0xF00, v := State.reset.v.set 15 0xFF }
    (fun t => t.i == 0xFFF && t.getV 15 == 0) := by decide

/-- I8, I9: no mask. -/
theorem test_ldFVx : sees { at200 0xF429 with v := State.reset.v.set 4 0x0A } (fun t => t.i == 50) ∧
    sees { at200 0xF429 with v := State.reset.v.set 4 0xFF } (fun t => t.i == 1275) := by decide

/-- B1. -/
theorem test_ldBVx : sees { at200 0xF533 with i := 0x300, v := State.reset.v.set 5 234 }
    (fun t => t.memRead 0x300 == 2 && t.memRead 0x301 == 3 && t.memRead 0x302 == 4 && t.i == 0x300) := by decide

/-- B7: the addresses wrap one by one. -/
theorem test_ldBVx_wraps : sees { at200 0xF533 with i := 0xFFE, v := State.reset.v.set 5 123 }
    (fun t => t.memRead 0xFFE == 1 && t.memRead 0xFFF == 2 && t.memRead 0 == 3) := by decide

/-- M1: an inclusive range. -/
theorem test_ldMemVx : sees { at200 0xF155 with i := 0x300, v := ((State.reset.v.set 0 0x11).set 1 0x22).set 2 0x33 }
    (fun t => t.memRead 0x300 == 0x11 && t.memRead 0x301 == 0x22 && t.memRead 0x302 == 0 && t.i == 0x302) := by decide

/-- M2: I wraps at 16 bits, the address at 12. -/
theorem test_ldMemVx_wraps : sees { at200 0xF055 with i := 0xFFFF, v := State.reset.v.set 0 0x77 }
    (fun t => t.memRead 0xFFF == 0x77 && t.i == 0) := by decide

/-- M3. -/
theorem test_ldVxMem : sees { withBytes (at200 0xF265) [(0x300, 2), (0x301, 3), (0x302, 4)] with i := 0x300 }
    (fun t => t.getV 0 == 2 && t.getV 1 == 3 && t.getV 2 == 4 && t.getV 3 == 0 && t.i == 0x303) := by decide

/-- M5: the read wraps to address 0. -/
theorem test_ldVxMem_wraps : sees { withBytes (at200 0xF165) [(0xFFF, 0xAA), (0, 0xBB)] with i := 0xFFF }
    (fun t => t.getV 0 == 0xAA && t.getV 1 == 0xBB && t.i == 0x1001) := by decide

/-! ## Display (T6) -/

/-- DR14: CLS of a blank display still marks the redraw. -/
theorem test_cls : sees (at200 0x00E0) (fun t => t.rp && t.changed && t.pc == 0x202) := by decide

/-- DR13. -/
theorem test_cls_blanks : sees { at200 0x00E0 with pix := State.reset.pix.set 0 0x20, v := State.reset.v.set 15 1 }
    (fun t => !t.pixel 5 && t.getV 15 == 1) := by decide

/-- DR1, under the default FONT: row 0 of glyph 0 is pixels 0 to 3, its row 1 is pixels 64 and 67. -/
theorem test_drw_glyph : sees (at200 0xD015) (fun t => t.pixel 0 && t.pixel 3 && !t.pixel 4 && t.pixel 64 && !t.pixel 65 &&
    t.pixel 67 && t.pixel 259 && t.getV 15 == 0 && t.rp && t.changed) := by decide

/-- DR9: the old VF is the row, then the collision flag. -/
theorem test_drw_collision_old_VF :
    sees { withBytes { at200 0xD0F1 with pix := State.reset.pix.set 5 8 } [(0x300, 0x80)] with
      i := 0x300, v := (State.reset.v.set 0 3).set 15 5 } (fun t => !t.pixel 323 && t.getV 15 == 1) := by decide

/-! ## Keys and timers (T7) -/

/-- K5: key number mod 16. -/
theorem test_skp : sees { at200 0xE29E with v := State.reset.v.set 2 0x15, key := State.reset.key.set 5 true }
    (fun t => t.pc == 0x204) := by decide

/-- K3, K4. -/
theorem test_sknp : sees { at200 0xE2A1 with v := State.reset.v.set 2 5, key := State.reset.key.set 5 true }
    (fun t => t.pc == 0x202) ∧ sees { at200 0xE2A1 with v := State.reset.v.set 2 5 } (fun t => t.pc == 0x204) := by decide

/-- K7: the lowest key wins. -/
theorem test_ldVxK : sees { at200 0xF20A with key := (State.reset.key.set 3 true).set 7 true }
    (fun t => t.getV 2 == 3 && t.pc == 0x202 && t.key == (State.reset.key.set 3 true).set 7 true) := by decide

/-- K6: no key, nothing changes. -/
theorem test_ldVxK_waits : after (at200 0xF20A) = some (at200 0xF20A) := by decide

/-- K13. -/
theorem test_ldVxDT : sees { at200 0xF107 with dt := 0x2C } (fun t => t.getV 1 == 0x2C && t.dt == 0x2C) := by decide

/-- K14. -/
theorem test_ldDTVx : sees { at200 0xF015 with v := State.reset.v.set 0 3 } (fun t => t.dt == 3) := by decide

/-- K15. -/
theorem test_ldSTVx : sees { at200 0xF018 with v := State.reset.v.set 0 4 } (fun t => t.st == 4 && t.dt == 0) := by decide

/-! ## The host's transactions (T7, T8) -/

/-- K11, K12. -/
theorem test_tick : State.tick { State.reset with st := 1 } = (State.reset, true) ∧ State.tick State.reset = (State.reset, false) := by
  decide

/-- K16, K17. -/
theorem test_setKey : (State.reset.setKey 9 true).keyPressed 9 = true ∧ (State.reset.setKey 9 true).setKey 9 false = State.reset := by
  decide

/-- X3, X4. -/
theorem test_loadProgram :
    State.reset.loadProgram [0x60, 0x05] = .ok (withBytes State.reset [(0x200, 0x60), (0x201, 0x05)]) ∧
    State.reset.loadProgram [] = .ok State.reset := by decide

/-- X7. -/
theorem test_loadProgram_too_large : State.reset.loadProgram (List.replicate 3585 0) = .error .romTooLarge := by
  rw [State.loadProgram, List.length_replicate]
  rfl

/-- X1, X9: reset wipes everything, and the next step is SYS. -/
theorem test_reset : State.hostReset { at200 0x6005 with sp := 16, rp := true, dt := 9 } = State.reset ∧
    sees State.reset (fun t => t.pc == 0x202 && t.status == .ok) := by decide

/-! ## Witnesses: the hypotheses of each statement are met together -/

/-- EncodeOfDecodeIsTheCanonicalWord, DecodedWordsMatchTheirRow, AssemblyRoundTripsOnCanonicalWords. -/
theorem test_witness_decoded_word : decodeWord 0x5121 = .ok (.seReg 1 2) ∧ decodeWord 0x5120 = .ok (.seReg 1 2) := by decide

/-- UnknownWordsAreExactlyThoseListed: each clause of R53 at an edge, and a known word. -/
theorem test_witness_unknown_words : unknownWord 0x0001 ∧ unknownWord 0x0FFF ∧ unknownWord 0x8008 ∧ unknownWord 0x8FFF := by
  decide

theorem test_witness_unknown_words_above : unknownWord 0xE000 ∧ unknownWord 0xEFFF ∧ unknownWord 0xF000 ∧ unknownWord 0xFFFF := by
  decide

theorem test_witness_known_words : ¬ unknownWord 0x00E0 ∧ ¬ unknownWord 0x800E ∧ ¬ unknownWord 0xE09E ∧ ¬ unknownWord 0xF065 := by
  decide

/-- StepRunsTheDecodedInstruction. -/
theorem test_witness_step : decodeWord (BitVec.ofNat 16 (((at200 0x6005).memRead (at200 0x6005).pc.toNat).toNat * 256 +
    ((at200 0x6005).memRead ((at200 0x6005).pc.toNat + 1)).toNat)) = .ok (.ldImm 0 5) := by decide

/-- ErrorsArePreciseAndRecur, ErrorsHaveExactlyTheirCauses: each error is met. -/
theorem test_witness_errors : sees (at200 0x0123) (fun t => t.status != .ok && t.status == .unknownOpcode) ∧
    sees { at200 0x2400 with sp := 16 } (fun t => t.status == .stackOverflow) ∧
    sees (at200 0x00EE) (fun t => t.status == .stackUnderflow) ∧ sees (at200 0x6005) (fun t => t.status == .ok) := by decide

/-- StallOutlivesEverythingButResetAndLoad: a stalled state of each kind, and transactions of every kind allowed. -/
theorem test_witness_stalled : (at200 0x0123).StalledOn .unknownOpcode ∧
    State.StalledOn { at200 0x2400 with sp := 16 } .stackOverflow ∧ (at200 0x00EE).StalledOn .stackUnderflow :=
  ⟨⟨by decide, rfl⟩, ⟨by decide, rfl⟩, ⟨by decide, rfl⟩⟩

theorem test_witness_stalled_requests :
    Transaction.reset ∉ [Transaction.step, .tick, .setKey 3 true, .clearRedraw, .readDisplay, .step] ∧
    ∀ image, Transaction.loadProgram image ∉ [Transaction.step, .tick, .setKey 3 true, .clearRedraw, .readDisplay, .step] := by
  refine ⟨by decide, fun image h => ?_⟩
  simp at h

/-- ChangedReportsADisplayChange: CLS, a DRW that toggles, a DRW that does not, another instruction. -/
theorem test_witness_changed : sees (at200 0x00E0) (fun t => t.changed) ∧ sees (at200 0xD015) (fun t => t.changed) ∧
    sees (at200 0xD010) (fun t => !t.changed) ∧ sees (at200 0x6005) (fun t => !t.changed) := by decide

/-- FinishedStateStaysAsItIs. -/
theorem test_witness_finished : (at200 0x1200).Finished := ⟨0x200, rfl, rfl⟩

/-- EveryStepKeepsMemoryCanonical, EveryTransactionKeepsMemoryCanonical: with memory that lists entries, a store, and a load. -/
theorem test_witness_invariant : (at200 0xF155).Inv ∧ (∃ t, step (at200 0xF155) = .next t) ∧
    ∃ u, transact (at200 0xF155) (.loadProgram [1, 2]) = .next (u, .done) :=
  ⟨by decide, ⟨_, rfl⟩, ⟨_, rfl⟩⟩

/-- PcAdvancesByClass: both parts. -/
theorem test_witness_pc : (∃ t, exec (.drw 1 2 3) State.reset = .next t) ∧ unknownWord (at200 0x8008).fetch ∧
    ∃ t, step (at200 0x8008) = .next t :=
  ⟨⟨_, rfl⟩, by decide, ⟨_, rfl⟩⟩

/-- RegistersOutsideTheWritesColumnAreUnchanged, at the register next to the destination. -/
theorem test_witness_writes_column : (∃ t, exec (.ldVxMem 3) State.reset = .next t) ∧ ¬ writesReg (.ldVxMem 3) 4 ∧
    ¬ writesReg (.addReg 1 2) 2 :=
  ⟨⟨_, rfl⟩, by unfold writesReg; decide, by unfold writesReg; decide⟩

/-- RegistersOutsideTheReadsColumnHaveNoInfluence: a register neither read nor written, one written and not read, and LD Vx,K with a
key pressed. -/
theorem test_witness_reads_column : (∃ t, exec (.addReg 1 2) State.reset = .next t) ∧ ¬ readsReg (.addReg 1 2) 3 ∧
    ¬ writesReg (.addReg 1 2) 3 ∧ ¬ readsReg (.addReg 1 2) VF ∧ writesReg (.addReg 1 2) VF ∧ ¬ readsReg (.ldVxK 2) 2 ∧
    writesReg (.ldVxK 2) 2 ∧ (State.reset.setKey 0 true).keyPressed 0 = true :=
  ⟨⟨_, rfl⟩, by unfold readsReg; decide, by unfold writesReg; decide, by unfold readsReg; decide, by unfold writesReg; decide,
    by unfold readsReg; decide, by unfold writesReg; decide, by decide⟩

/-- FlagIsZeroOrOne. -/
theorem test_witness_flag : definesFlag (.addIVx 3) ∧ definesFlag (.drw 0 0 0) ∧ ¬ definesFlag (.addImm 0 0) :=
  ⟨trivial, trivial, id⟩

/-- MemoryIsWrittenByTheTwoStoresAlone, OtherStateIsWrittenByItsInstructionsAlone: an instruction that meets every premise. -/
theorem test_witness_frames : (∃ t, exec (.ldImm 0 1) State.reset = .next t) ∧ (∀ x, Instr.ldImm 0 1 ≠ .ldBVx x) ∧
    (∀ x, Instr.ldImm 0 1 ≠ .ldMemVx x) ∧ (∀ n, Instr.ldImm 0 1 ≠ .ldI n) ∧ (∀ x, Instr.ldImm 0 1 ≠ .addIVx x) ∧
    (∀ x, Instr.ldImm 0 1 ≠ .ldFVx x) ∧ (∀ x, Instr.ldImm 0 1 ≠ .ldVxMem x) ∧ (∀ n, Instr.ldImm 0 1 ≠ .call n) ∧
    Instr.ldImm 0 1 ≠ .ret ∧ Instr.ldImm 0 1 ≠ .cls ∧ (∀ x y n, Instr.ldImm 0 1 ≠ .drw x y n) ∧
    (∀ x, Instr.ldImm 0 1 ≠ .ldDTVx x) ∧ (∀ x, Instr.ldImm 0 1 ≠ .ldSTVx x) ∧ ∀ x nn, Instr.ldImm 0 1 ≠ .rnd x nn := by
  refine ⟨⟨_, rfl⟩, ?_⟩
  simp

/-- TickCommutesWithStepsThatMoveNoTimer, with both timers running. -/
theorem test_witness_tick_commutes : decodeWord (State.fetch { at200 0x6005 with dt := 5, st := 1 }) = .ok (.ldImm 0 5) ∧
    ∃ t, step { at200 0x6005 with dt := 5, st := 1 } = .next t := ⟨by decide, _, rfl⟩

/-- CallPushesItsOwnAddress, RetReturnsPastTheCall: each clause at the edges of SP. -/
theorem test_witness_depth : State.reset.sp.val < 16 ∧ State.sp { State.reset with sp := 15 } < 16 ∧
    State.sp { State.reset with sp := 16 } = 16 ∧ 0 < State.sp { State.reset with sp := 1 } ∧
    0 < State.sp { State.reset with sp := 16 } ∧ State.reset.sp = 0 := by decide

/-- The clauses on x ≠ VF of AddSetsTheCarry, SubtractionsSetNotBorrow, ShiftsByOneSetTheBitShiftedOut, and DrawingTwiceRestoresTheDisplay. -/
theorem test_witness_not_flag_register : (0 : Reg) ≠ VF ∧ (14 : Reg) ≠ VF := by decide

/-- BcdStoresThreeDigits, BlockStoreWritesEachRegister: bytes just below and just above what is stored, at the wrap. -/
theorem test_witness_outside_stores :
    (∀ k, k < 3 → 0xFFD % 4096 ≠ State.indexed { State.reset with i := 0xFFE } k % 4096) ∧
    (∀ k, k < 3 → 1 % 4096 ≠ State.indexed { State.reset with i := 0xFFE } k % 4096) ∧
    (∀ k : Reg, k ≤ 1 → 0 % 4096 ≠ State.indexed { State.reset with i := 0xFFE } k.val % 4096) := by decide

/-- BlockLoadReadsEachRegister: a register in the block and one just past it. -/
theorem test_witness_block : (3 : Reg) ≤ 3 ∧ (3 : Reg) < 4 := by decide

/-- StoreIsSeenByTheNextFetch: the program of 95_test_vectors.md T5, its second step. -/
theorem test_witness_store_over_next :
    ∃ t, exec (.ldMemVx 1) { State.reset with i := 0x204, pc := 0x202 } = .next t ∧ (0 : Reg).val + 1 ≤ (1 : Reg).val ∧
      State.indexed { State.reset with i := 0x204, pc := 0x202 } (0 : Reg).val % 4096 = t.pc.toNat % 4096 :=
  ⟨_, rfl, by decide, by decide⟩

/-- DrwXorsTheSpriteAndReportsCollision, DrawingOnABlankDisplayShowsTheSprite, DrawingTwiceRestoresTheDisplay: a covered pixel, an
uncovered one, a collision, a covered pixel that is off (glyph 0 of the default FONT at (0,0)). -/
theorem test_witness_sprite : State.reset.spriteCovers 0 0 5 3 0 ∧ ¬ State.reset.spriteCovers 0 0 5 4 0 ∧
    State.reset.spriteCovers 62 31 5 0 31 ∧ State.pixel { State.reset with pix := State.reset.pix.set 0 8 } 3 = true ∧
    State.reset.pixel 3 = false := by
  refine ⟨⟨0, 3, by decide⟩, ?_, ⟨0, 2, by decide⟩, by decide, by decide⟩
  rintro ⟨row, col, hr, hc, hb, hx, hy⟩
  obtain ⟨rfl, rfl⟩ : row = 0 ∧ col = 4 := by omega
  exact absurd hb (by decide)

/-- One sprite bit over one pixel that is on. -/
def litPixel : State := { withBytes State.reset [(0x300, 0x80)] with i := 0x300, pix := State.reset.pix.set 0 1 }

/-- DrawingTwiceRestoresTheDisplay: its last clause, every covered pixel on before the first drawing (R96, assumption 12). -/
theorem test_witness_all_lit : litPixel.spriteCovers 0 0 1 0 0 ∧
    ∀ px py, px < 64 → py < 32 → litPixel.spriteCovers 0 0 1 px py → litPixel.pixel (py * 64 + px) = true := by
  refine ⟨⟨0, 0, by decide⟩, ?_⟩
  rintro px py hx hy ⟨row, col, hr, hc, hb, hpx, hpy⟩
  obtain rfl : row = 0 := by omega
  have hcol : ∀ c, c < 8 → spriteBit (litPixel.memRead (litPixel.indexed 0)) c = true → c = 0 := by decide
  obtain rfl := hcol col hc hb
  obtain ⟨rfl, rfl⟩ : px = 0 ∧ py = 0 := by omega
  decide

/-- KeySkipsTestTheKeyLatch: a key number above 15. -/
theorem test_witness_key_number : (5 : Digit).val = (State.getV { State.reset with v := State.reset.v.set 2 0x15 } 2).toNat % 16 := by
  decide

/-- KeyWaitTakesTheLeastPressedKey: the two clauses, the first with two keys down and at key 0. -/
theorem test_witness_keys : (State.keyPressed ((State.reset.setKey 3 true).setKey 7 true) 3 = true ∧
    ∀ j : Digit, j < 3 → State.keyPressed ((State.reset.setKey 3 true).setKey 7 true) j = false) ∧
    ((State.reset.setKey 0 true).keyPressed 0 = true ∧ ∀ j : Digit, j < 0 → (State.reset.setKey 0 true).keyPressed j = false) ∧
    ∀ j, State.reset.keyPressed j = false := by decide

/-- HostWritesTouchOnlyTheirField: another key. -/
theorem test_witness_other_key : (4 : Digit) ≠ 3 ∧ 31 < 32 ∧ 63 < 64 := by decide

/-- LoadProgramCopiesTheImageOrRefusesIt, BootLeavesTheLaunchState: the longest image accepted, the shortest refused, and addresses
on both sides of an image. -/
theorem test_witness_image_lengths : (List.replicate 3584 (0xAB : Byte)).length ≤ 3584 ∧
    3584 < (List.replicate 3585 (0xAB : Byte)).length ∧ 0x1FF % 4096 < 0x200 ∧ 0x200 + [(1 : Byte), 2].length ≤ 0x202 % 4096 ∧
    1 < [(1 : Byte), 2].length := by
  rw [List.length_replicate, List.length_replicate]
  decide

/-- ResetLeavesTheResetTable: the last font byte (default FONT) and the first byte past it. -/
theorem test_witness_reset_addresses : State.reset.font = defaultFont ∧ State.reset.memRead 79 = 0x80 ∧ 0x050 ≤ 80 ∧
    State.reset.memRead 80 = 0 := by decide

/-- FONT is a parameter (R20): a core with another FONT reads it at address 0..79, and writing a byte of it back changes nothing. -/
theorem test_other_font : (State.resetWith (Vector.replicate 80 0x3C)).memRead 79 = 0x3C ∧
    (State.resetWith (Vector.replicate 80 0x3C)).memWrite 7 0x3C = State.resetWith (Vector.replicate 80 0x3C) ∧
    State.hostReset { State.resetWith (Vector.replicate 80 0x3C) with pc := 2 } = State.resetWith (Vector.replicate 80 0x3C) := by
  decide

/-- The codes of R112. -/
theorem test_status_codes : [Status.ok, .unknownOpcode, .stackOverflow, .stackUnderflow].map Status.code = [0, 1, 2, 3] := by decide

/-- DecodedWordsMatchTheirRow, the converse: a word with an undecoded digit set matches the row of SHR. -/
theorem test_witness_row_match : (0x8AB6 : Word) &&& rowMask (.shr 0) = rowMatch (.shr 0) := by decide

end Sys2Proof.Tests
end

/-!
What an instruction, a step and a transaction do to memory and to FONT, and that each keeps memory canonical (spec/00_scope.md
rule R9, spec/20_memory.md rule R46).
-/

namespace Sys2Proof.Machine

/-! ### What the block transfers and the image copy leave -/

@[simp] theorem State.storeRegs_font (s : State) (rs : List Reg) : (s.storeRegs rs).font = s.font := by
  rw [s.storeRegs_eq]

@[simp] theorem State.loadRegs_mem (s : State) (rs : List Reg) : (s.loadRegs rs).mem = s.mem := by
  rw [s.loadRegs_eq]

@[simp] theorem State.loadRegs_font (s : State) (rs : List Reg) : (s.loadRegs rs).font = s.font := by
  rw [s.loadRegs_eq]

@[simp] theorem State.storeBytes_font (s : State) (a : Nat) (bs : List Byte) : (s.storeBytes a bs).font = s.font := by
  rw [s.storeBytes_eq]

/-! ### Instructions -/

/-- Memory after an instruction: only LD B,Vx and LD [I],Vx write it (R31, R40). -/
def memAfter (s : State) : Instr → Memory
  | .ldBVx x =>
    (((s.memWrite (s.indexed 0) (hundreds (s.getV x))).memWrite (s.indexed 1) (tens (s.getV x))).memWrite
      (s.indexed 2) (ones (s.getV x))).mem
  | .ldMemVx x => (s.storeRegs (regsUpTo x)).mem
  | _ => s.mem

/-- Every instruction completes, with `memAfter` as its memory and FONT as before. -/
theorem exec_next_memAfter_font (i : Instr) (s : State) :
    ∃ t, exec i s = .next t ∧ t.mem = memAfter s i ∧ t.font = s.font := by
  cases i with
  | ret =>
    rw [exec, execRet]
    split
    · exact ⟨_, rfl, rfl, rfl⟩
    · exact ⟨_, rfl, rfl, rfl⟩
  | call nnn =>
    rw [exec, execCall]
    split
    · exact ⟨_, rfl, rfl, rfl⟩
    · exact ⟨_, rfl, rfl, rfl⟩
  | ldVxK x =>
    rw [exec, execLdVxK]
    split
    · exact ⟨_, rfl, rfl, rfl⟩
    · exact ⟨_, rfl, rfl, rfl⟩
  | ldMemVx x => exact ⟨_, rfl, rfl, s.storeRegs_font (regsUpTo x)⟩
  | ldVxMem x => exact ⟨_, rfl, s.loadRegs_mem (regsUpTo x), s.loadRegs_font (regsUpTo x)⟩
  | _ => exact ⟨_, rfl, rfl, rfl⟩

theorem exec_mem {i : Instr} {s t : State} (h : exec i s = .next t) : t.mem = memAfter s i := by
  obtain ⟨t', ht', hmem, -⟩ := exec_next_memAfter_font i s
  cases ht'.symm.trans h
  exact hmem

theorem exec_font {i : Instr} {s t : State} (h : exec i s = .next t) : t.font = s.font := by
  obtain ⟨t', ht', -, hfont⟩ := exec_next_memAfter_font i s
  cases ht'.symm.trans h
  exact hfont

theorem memAfter_wf (s : State) (i : Instr) (hs : s.Inv) : Memory.wf s.font (memAfter s i) := by
  cases i with
  | ldBVx x => exact State.memWrite_wf _ _ _ (State.memWrite_wf _ _ _ (State.memWrite_wf _ _ _ hs))
  | ldMemVx x => exact s.storeRegs_wf (regsUpTo x) hs
  | _ => exact hs

theorem exec_inv {i : Instr} {s t : State} (hs : s.Inv) (h : exec i s = .next t) : t.Inv := by
  rw [State.Inv, exec_font h, exec_mem h]
  exact memAfter_wf s i hs

/-! ### Steps -/

/-- All a step can do: execute the word at PC as the instruction it decodes to, or raise UnknownOpcode (R61, R114). -/
theorem step_cases (s : State) :
    (∃ i, decodeWord s.fetch = .ok i ∧ step s = exec i s) ∨
      ((∃ e, decodeWord s.fetch = .error e) ∧ step s = s.raise .unknownOpcode) := by
  unfold step
  cases hd : decodeWord s.fetch with
  | ok i => exact .inl ⟨i, rfl, rfl⟩
  | error e => exact .inr ⟨⟨e, rfl⟩, rfl⟩

theorem step_inv {s t : State} (hs : s.Inv) (h : step s = .next t) : t.Inv := by
  obtain ⟨i, -, hi⟩ | ⟨-, hr⟩ := step_cases s
  · exact exec_inv hs (hi.symm.trans h)
  · cases hr.symm.trans h
    exact hs

/-! ### Transactions -/

/-- A transaction `step` answers the state of the step with its two results (R61). -/
theorem transact_step_eq_next_iff (s u : State) (r : Response) :
    transact s .step = .next (u, r) ↔ step s = .next u ∧ r = .stepped u.status u.changed := by
  unfold transact
  cases step s with
  | next t =>
    constructor
    · intro h
      cases h
      exact ⟨rfl, rfl⟩
    · rintro ⟨h, rfl⟩
      cases h
      rfl
  | fault f => simp
  | refused e => simp

/-- A transaction `loadProgram` copies the image, or refuses one above 3584 bytes and leaves the state (R117, R131). -/
theorem transact_loadProgram (s : State) (image : List Byte) :
    transact s (.loadProgram image) =
      if 3584 < image.length then .next (s, .romTooLarge) else .next (s.storeBytes 0x200 image, .done) := by
  simp only [transact, State.loadProgram_eq]
  by_cases hlen : 3584 < image.length
  · simp only [if_pos hlen]
  · simp only [if_neg hlen]

theorem State.hostReset_inv (s : State) : s.hostReset.Inv := Memory.wf_nil s.font

theorem State.storeBytes_inv (s : State) (a : Nat) (bs : List Byte) (hs : s.Inv) : (s.storeBytes a bs).Inv := by
  rw [State.Inv, State.storeBytes_font]
  exact s.storeBytes_wf a bs hs

theorem transact_inv {s u : State} {a : Transaction} {r : Response} (hs : s.Inv) (h : transact s a = .next (u, r)) :
    u.Inv := by
  cases a with
  | reset =>
    cases h
    exact s.hostReset_inv
  | loadProgram image =>
    rw [transact_loadProgram] at h
    split at h
    · cases h
      exact hs
    · cases h
      exact s.storeBytes_inv 0x200 image hs
  | step => exact step_inv hs ((transact_step_eq_next_iff s u r).1 h).1
  | tick | setKey k pressed | clearRedraw | readDisplay =>
    cases h
    exact hs

/-- Settles O17: a step by the memory each instruction leaves, `reset` by the empty listing, a load byte by byte; the other
transactions do not touch memory. -/
theorem everyTransactionKeepsMemoryCanonical : Obligations.EveryTransactionKeepsMemoryCanonical :=
  fun _ _ _ _ => transact_inv

end Sys2Proof.Machine


/-!
Which fields an instruction may write, the flag it leaves in VF, the state after reset, and FONT through instructions, steps and
whole runs (spec/10_state.md rules R13 to R15, R20 to R26 and R29).
-/

namespace Sys2Proof.Machine

/-! ### The footprint of an instruction -/

/-- `s` with the fields an instruction may write taken from `t`: PC, the two results of the step, and what its rule names. -/
def State.footprint (s t : State) (i : Instr) : State :=
  let u := { s with pc := t.pc, status := t.status, changed := t.changed }
  match i with
  | .cls => { u with pix := t.pix, rp := t.rp }
  | .ret => { u with sp := t.sp }
  | .call _ => { u with stk := t.stk, sp := t.sp }
  | .ldImm _ _ | .addImm _ _ | .ldReg _ _ | .orReg _ _ | .andReg _ _ | .xorReg _ _ | .addReg _ _ | .subReg _ _
  | .subnReg _ _ | .shr _ | .shl _ | .ldVxDT _ | .ldVxK _ => { u with v := t.v }
  | .rnd _ _ => { u with v := t.v, draws := t.draws }
  | .drw _ _ _ => { u with v := t.v, pix := t.pix, rp := t.rp }
  | .ldI _ | .ldFVx _ => { u with i := t.i }
  | .addIVx _ | .ldVxMem _ => { u with i := t.i, v := t.v }
  | .ldBVx _ => { u with mem := t.mem }
  | .ldMemVx _ => { u with i := t.i, mem := t.mem }
  | .ldDTVx _ => { u with dt := t.dt }
  | .ldSTVx _ => { u with st := t.st }
  | .sys | .jp _ | .seImm _ _ | .sneImm _ _ | .seReg _ _ | .sneReg _ _ | .jpV0 _ | .skp _ | .sknp _ => u

/-- An instruction writes nothing outside its footprint. -/
theorem exec_footprint {i : Instr} {s t : State} (h : exec i s = .next t) : t = s.footprint t i := by
  cases i with
  | ret =>
    rw [exec, execRet] at h
    split at h <;> cases h <;> rfl
  | call nnn =>
    rw [exec, execCall] at h
    split at h <;> cases h <;> rfl
  | ldVxK x =>
    rw [exec, execLdVxK] at h
    split at h <;> cases h <;> rfl
  | ldMemVx x =>
    rw [exec, execLdMemVx, s.storeRegs_eq] at h
    cases h
    rfl
  | ldVxMem x =>
    rw [exec, execLdVxMem, s.loadRegs_eq] at h
    cases h
    rfl
  | _ =>
    cases h
    rfl

/-- RP is never cleared by an instruction (R26). -/
theorem exec_rp_of_rp {i : Instr} {s t : State} (h : exec i s = .next t) (hrp : s.rp = true) : t.rp = true := by
  cases i with
  | cls =>
    cases h
    rfl
  | drw x y n =>
    cases h
    exact (congrArg (· || _) hrp).trans (Bool.true_or _)
  | _ =>
    rw [exec_footprint h]
    exact hrp

/-! ### Who writes what -/

section Writers

variable {i : Instr} {s t : State}

theorem exec_index_eq (h : exec i s = .next t) (hldI : ∀ n, i ≠ .ldI n) (haddI : ∀ x, i ≠ .addIVx x)
    (hldF : ∀ x, i ≠ .ldFVx x) (hstore : ∀ x, i ≠ .ldMemVx x) (hload : ∀ x, i ≠ .ldVxMem x) : t.i = s.i := by
  rw [exec_footprint h]
  cases i with
  | ldI n => exact absurd rfl (hldI n)
  | addIVx x => exact absurd rfl (haddI x)
  | ldFVx x => exact absurd rfl (hldF x)
  | ldMemVx x => exact absurd rfl (hstore x)
  | ldVxMem x => exact absurd rfl (hload x)
  | _ => rfl

theorem exec_sameStack (h : exec i s = .next t) (hcall : ∀ n, i ≠ .call n) (hret : i ≠ .ret) : SameStack s t := by
  rw [exec_footprint h]
  cases i with
  | call n => exact absurd rfl (hcall n)
  | ret => exact absurd rfl hret
  | _ => exact ⟨rfl, fun _ => rfl⟩

theorem exec_sameKeys (h : exec i s = .next t) : SameKeys s t := by
  rw [exec_footprint h]
  cases i <;> exact fun _ => rfl

theorem exec_sameDisplay (h : exec i s = .next t) (hcls : i ≠ .cls) (hdrw : ∀ x y n, i ≠ .drw x y n) :
    SameDisplay s t := by
  rw [exec_footprint h]
  cases i with
  | cls => exact absurd rfl hcls
  | drw x y n => exact absurd rfl (hdrw x y n)
  | _ => exact ⟨fun _ _ => rfl, rfl⟩

theorem exec_dt_eq (h : exec i s = .next t) (hld : ∀ x, i ≠ .ldDTVx x) : t.dt = s.dt := by
  rw [exec_footprint h]
  cases i with
  | ldDTVx x => exact absurd rfl (hld x)
  | _ => rfl

theorem exec_st_eq (h : exec i s = .next t) (hld : ∀ x, i ≠ .ldSTVx x) : t.st = s.st := by
  rw [exec_footprint h]
  cases i with
  | ldSTVx x => exact absurd rfl (hld x)
  | _ => rfl

theorem exec_draws_eq (h : exec i s = .next t) (hrnd : ∀ x nn, i ≠ .rnd x nn) : t.draws = s.draws := by
  rw [exec_footprint h]
  cases i with
  | rnd x nn => exact absurd rfl (hrnd x nn)
  | _ => rfl

end Writers

/-- Settles O23: each clause from the footprint of the instruction. -/
theorem otherStateIsWrittenByItsInstructionsAlone : Obligations.OtherStateIsWrittenByItsInstructionsAlone :=
  fun _ _ _ h => ⟨exec_index_eq h, exec_sameStack h, exec_sameKeys h, exec_sameDisplay h, exec_dt_eq h, exec_st_eq h,
    exec_rp_of_rp h, exec_draws_eq h⟩

/-! ### Registers outside the writes column -/

/-- A register other than the one written reads as before. -/
theorem State.getV_setV_of_ne (s : State) {r q : Reg} (b : Byte) (h : q ≠ r) : (s.setV r b).getV q = s.getV q :=
  (s.getV_setV r q b).trans (if_neg h)

theorem State.getV_setFlag_of_ne (s : State) {q : Reg} (f : Bool) (h : q ≠ VF) : (s.setFlag f).getV q = s.getV q :=
  s.getV_setV_of_ne (flagByte f) h

theorem exec_getV_of_not_writesReg {i : Instr} {s t : State} {r : Reg} (h : exec i s = .next t) (hw : ¬ writesReg i r) :
    t.getV r = s.getV r := by
  cases i with
  | ldImm x _ | addImm x _ | ldReg x _ | orReg x _ | andReg x _ | xorReg x _ | rnd x _ | ldVxDT x =>
    cases h
    exact s.getV_setV_of_ne _ hw
  | ldVxK x =>
    rw [exec, execLdVxK] at h
    split at h <;> cases h
    · exact s.getV_setV_of_ne _ hw
    · rfl
  | addReg x _ | subReg x _ | subnReg x _ | shr x | shl x =>
    obtain ⟨hx, hf⟩ := not_or.1 hw
    cases h
    exact (State.getV_setFlag_of_ne _ _ hf).trans (s.getV_setV_of_ne _ hx)
  | drw _ _ _ | addIVx _ =>
    cases h
    exact s.getV_setFlag_of_ne _ hw
  | ldVxMem x =>
    cases h
    exact (s.getV_loadRegs _ r).trans (if_neg fun hr => hw ((mem_regsUpTo x r).1 hr))
  | _ =>
    rw [exec_footprint h]
    rfl

/-- Settles O19, by the one register, or block of registers, that an instruction of each kind writes. -/
theorem registersOutsideTheWritesColumnAreUnchanged : Obligations.RegistersOutsideTheWritesColumnAreUnchanged :=
  fun _ _ _ _ => exec_getV_of_not_writesReg

/-! ### The flag -/

theorem flagByte_eq_zero_or_one (f : Bool) : flagByte f = 0 ∨ flagByte f = 1 := by
  cases f <;> decide

/-- A step that writes the flag last ends with that flag in VF (R13). -/
theorem State.exists_next_of_setFlag (s : State) (f c : Bool) :
    ∃ t, (s.setFlag f).advance.finish c = .next t ∧ t.getV VF = flagByte f :=
  ⟨_, rfl, (s.getV_setFlag f VF).trans (if_pos rfl)⟩

theorem exec_getV_VF_of_definesFlag {i : Instr} (s : State) (hi : definesFlag i) :
    ∃ f t, exec i s = .next t ∧ t.getV VF = flagByte f := by
  cases i with
  | addReg _ _ | subReg _ _ | subnReg _ _ | shr _ | shl _ | drw _ _ _ | addIVx _ =>
    exact ⟨_, State.exists_next_of_setFlag _ _ _⟩
  | _ => exact hi.elim

/-- Settles O21: each flag-defining instruction writes its flag byte to VF last. -/
theorem flagIsZeroOrOne : Obligations.FlagIsZeroOrOne := by
  intro i s hi
  obtain ⟨f, t, ht, hf⟩ := exec_getV_VF_of_definesFlag s hi
  exact ⟨t, ht, hf ▸ flagByte_eq_zero_or_one f⟩

/-! ### Reset -/

@[simp] theorem State.getV_hostReset (s : State) (r : Reg) : s.hostReset.getV r = 0 :=
  Vector.getElem_replicate r.isLt

@[simp] theorem State.stk_get_hostReset (s : State) (k : Fin 16) : s.hostReset.stk.get k = 0 :=
  Vector.getElem_replicate k.isLt

@[simp] theorem State.keyPressed_hostReset (s : State) (k : Digit) : s.hostReset.keyPressed k = false :=
  Vector.getElem_replicate k.isLt

@[simp] theorem State.pixel_hostReset (s : State) (k : Nat) : s.hostReset.pixel k = false := by
  have row (y : Fin 32) : s.hostReset.pix.get y = 0 := Vector.getElem_replicate y.isLt
  rw [State.pixel, pixelAt, row]
  exact BitVec.getLsbD_zero

/-- Memory after `reset` is zero from 0x050 on (R29). -/
theorem State.memRead_hostReset_zero (s : State) (a : Nat) (hlo : 0x050 ≤ a) (hhi : a < 4096) :
    s.hostReset.memRead a = 0 := by
  rw [s.memRead_hostReset, Nat.mod_eq_of_lt hhi]
  exact resetByte_zero s.font a hlo

theorem State.memRead_hostReset_font (s : State) (k : Fin 80) : s.hostReset.memRead k.val = s.font.get k := by
  rw [s.memRead_hostReset, Nat.mod_eq_of_lt (by omega)]
  exact resetByte_font s.font k

/-- The state after `reset` is the table of R29. -/
theorem State.hostReset_launchState (s : State) : LaunchState s.font [] s.hostReset :=
  ⟨s.getV_hostReset, rfl, rfl, s.memRead_hostReset_font,
    fun a hlo hhi => s.memRead_hostReset_zero a hlo (by omega), fun _ hk => absurd hk (Nat.not_lt_zero _),
    fun a hlo hhi => s.memRead_hostReset_zero a (Nat.le_trans (by decide) hlo) hhi, s.stk_get_hostReset, rfl,
    s.keyPressed_hostReset, fun k _ => s.pixel_hostReset k, rfl, rfl, rfl⟩

/-- Settles O55, field by field. -/
theorem resetLeavesTheResetTable : Obligations.ResetLeavesTheResetTable :=
  fun s => ⟨s.hostReset, rfl, s.hostReset_launchState, rfl⟩

/-- Settles O15: memory after reset lists nothing. -/
theorem resetMeetsTheInvariant : Obligations.ResetMeetsTheInvariant :=
  ⟨Memory.wf_nil defaultFont, Memory.wf_nil⟩

/-! ### FONT through steps and runs -/

theorem step_font {s t : State} (h : step s = .next t) : t.font = s.font := by
  obtain ⟨i, -, hi⟩ | ⟨-, hr⟩ := step_cases s
  · exact exec_font (hi.symm.trans h)
  · cases hr.symm.trans h
    rfl

theorem transact_font {s u : State} {a : Transaction} {r : Response} (h : transact s a = .next (u, r)) :
    u.font = s.font := by
  cases a with
  | loadProgram image =>
    rw [transact_loadProgram] at h
    split at h <;> cases h
    · rfl
    · exact s.storeBytes_font 0x200 image
  | step => exact step_font ((transact_step_eq_next_iff s u r).1 h).1
  | reset | tick | setKey k pressed | clearRedraw | readDisplay =>
    cases h
    rfl

/-- All a run of at least one transaction can do: the first transaction, then the rest on the state it left (R9, R111). -/
theorem runTransactions_cons_next {s u : State} {a : Transaction} {ts : List Transaction} {rs : List Response}
    (h : runTransactions s (a :: ts) = .next (u, rs)) :
    ∃ t r rs', transact s a = .next (t, r) ∧ runTransactions t ts = .next (u, rs') ∧ rs = r :: rs' := by
  rw [runTransactions] at h
  split at h
  · rename_i t r hfirst
    split at h <;> cases h
    rename_i rs' hrest
    exact ⟨t, r, rs', hfirst, hrest, rfl⟩
  · cases h
  · cases h

/-- What every transaction keeps, a whole run keeps. -/
theorem runTransactions_preserves (P : State → Prop) (hP : ∀ s a u r, P s → transact s a = .next (u, r) → P u)
    {ts : List Transaction} {s u : State} {rs : List Response} (hs : P s) (h : runTransactions s ts = .next (u, rs)) :
    P u := by
  induction ts generalizing s rs with
  | nil =>
    cases h
    exact hs
  | cons a ts ih =>
    obtain ⟨t, r, rs', hfirst, hrest, -⟩ := runTransactions_cons_next h
    exact ih (hP s a t r hs hfirst) hrest

theorem runTransactions_font {ts : List Transaction} {s u : State} {rs : List Response}
    (h : runTransactions s ts = .next (u, rs)) : u.font = s.font :=
  runTransactions_preserves (fun t => t.font = s.font) (fun _ _ _ _ ht hstep => (transact_font hstep).trans ht) rfl h

/-- Settles O58: no instruction writes FONT, so no step, no transaction and, by induction, no run does. -/
theorem nothingChangesTheFont : Obligations.NothingChangesTheFont :=
  ⟨fun _ _ _ => exec_font, fun _ _ => step_font, fun _ _ _ _ => runTransactions_font⟩

end Sys2Proof.Machine

/-!
The reads column: an instruction does the same whatever a register it does not read held before (spec/10_state.md rule R14).
-/

namespace Sys2Proof.Machine

/-- An outcome with its next state, if it has one, changed by `f`. -/
def mapNext (f : State → State) : Host.Outcome State Fault Refusal → Host.Outcome State Fault Refusal
  | .next t => .next (f t)
  | .fault e => .fault e
  | .refused e => .refused e

/-! ### What the shared operations do on a state with one register changed -/

@[simp] theorem State.drawSprite_setV (s : State) (r : Reg) (b : Byte) (vx vy n : Nat) :
    (s.setV r b).drawSprite vx vy n = s.drawSprite vx vy n := rfl

@[simp] theorem State.lowestKey_setV (s : State) (r : Reg) (b : Byte) : (s.setV r b).lowestKey = s.lowestKey := rfl

/-- A flag write makes the old value of VF irrelevant, and the result before it too where that is in VF (R13). -/
theorem State.setV_setFlag_of_setV_VF (s : State) (x : Reg) (b c : Byte) (f : Bool) :
    ((s.setV VF b).setV x c).setFlag f = (s.setV x c).setFlag f := by
  by_cases hx : x = VF
  · rw [hx, s.setV_setV]
  · rw [s.setV_comm VF x b c (Ne.symm hx)]
    exact State.setV_setV ..

theorem State.setV_setFlag_comm (s : State) {x r : Reg} (b c : Byte) (f : Bool) (hx : r ≠ x) (hf : r ≠ VF) :
    ((s.setV r b).setV x c).setFlag f = ((s.setV x c).setFlag f).setV r b := by
  rw [s.setV_comm r x b c hx]
  exact State.setV_comm _ r VF b (flagByte f) hf

/-- States that read alike in every register and agree in every other field are equal. -/
theorem State.eq_of_getV (s : State) {t u : State} (hregs : ∀ q, t.getV q = u.getV q) (ht : t = { s with v := t.v })
    (hu : u = { s with v := u.v }) : t = u := by
  rw [ht, hu, State.v_ext t u hregs]

theorem State.loadRegs_setV_of_mem (s : State) {rs : List Reg} {r : Reg} (b : Byte) (hr : r ∈ rs) :
    (s.setV r b).loadRegs rs = s.loadRegs rs := by
  refine State.eq_of_getV s (fun q => ?_) ((s.setV r b).loadRegs_eq rs) (s.loadRegs_eq rs)
  rw [State.getV_loadRegs, State.getV_loadRegs]
  by_cases hq : q ∈ rs
  · rw [if_pos hq, if_pos hq]
    rfl
  · rw [if_neg hq, if_neg hq]
    exact s.getV_setV_of_ne b fun h => hq (h ▸ hr)

theorem State.loadRegs_setV_of_notMem (s : State) {rs : List Reg} {r : Reg} (b : Byte) (hr : r ∉ rs) :
    (s.setV r b).loadRegs rs = (s.loadRegs rs).setV r b := by
  refine State.eq_of_getV s (fun q => ?_) ((s.setV r b).loadRegs_eq rs) ?_
  · rw [State.getV_setV, State.getV_loadRegs, State.getV_loadRegs, State.getV_setV]
    by_cases hq : q = r
    · rw [hq, if_neg hr, if_pos rfl, if_pos rfl]
    · rw [if_neg hq, if_neg hq]
      rfl
  · rw [s.loadRegs_eq]
    rfl

theorem State.storeFold_setV (s : State) {rs : List Reg} {r : Reg} (b : Byte) (hr : r ∉ rs) (t : State) :
    rs.foldl (fun t k => t.memWrite ((s.setV r b).indexed k.val) ((s.setV r b).getV k)) (t.setV r b) =
      (rs.foldl (fun t k => t.memWrite (s.indexed k.val) (s.getV k)) t).setV r b := by
  induction rs generalizing t with
  | nil => rfl
  | cons q rs ih =>
    obtain ⟨hq, hrs⟩ := List.ne_and_not_mem_of_not_mem_cons hr
    rw [List.foldl_cons, List.foldl_cons, s.getV_setV_of_ne b hq.symm]
    exact ih hrs (t.memWrite (s.indexed q.val) (s.getV q))

theorem State.storeRegs_setV (s : State) {rs : List Reg} {r : Reg} (b : Byte) (hr : r ∉ rs) :
    (s.setV r b).storeRegs rs = (s.storeRegs rs).setV r b := s.storeFold_setV b hr s

/-! ### Carried through, or lost -/

/-- A register that an instruction neither reads nor writes is carried through (R14). -/
theorem exec_setV_of_not_reads_not_writes {i : Instr} (s : State) {r : Reg} (b : Byte) (hr : ¬ readsReg i r)
    (hw : ¬ writesReg i r) : exec i (s.setV r b) = mapNext (·.setV r b) (exec i s) := by
  have same {q : Reg} (hq : r ≠ q) : (s.setV r b).getV q = s.getV q := s.getV_setV_of_ne b hq.symm
  cases i with
  | cls | sys | jp _ | ldI _ => rfl
  | ret =>
    by_cases h0 : s.sp.val = 0 <;> simp only [exec, execRet, State.setV_sp, h0, ↓reduceDIte] <;> rfl
  | call nnn =>
    by_cases h16 : s.sp.val < 16 <;> simp only [exec, execCall, State.setV_sp, h16, ↓reduceDIte] <;> rfl
  | seImm x _ | sneImm x _ | skp x | sknp x | ldDTVx x | ldSTVx x | ldFVx x | ldBVx x | jpV0 _ =>
    simp only [exec, execSeImm, execSneImm, execSkp, execSknp, execLdDTVx, execLdSTVx, execLdFVx, execLdBVx, execJpV0,
      same hr]
    rfl
  | seReg x y | sneReg x y =>
    obtain ⟨hx, hy⟩ := not_or.1 hr
    simp only [exec, execSeReg, execSneReg, same hx, same hy]
    rfl
  | ldImm x _ | ldVxDT x => exact congrArg State.sequential (s.setV_comm r x b _ hw)
  | rnd x _ => exact congrArg State.sequential (s.drawn.setV_comm r x b _ hw)
  | addImm x _ | ldReg _ x =>
    simp only [exec, execAddImm, execLdReg, same hr]
    exact congrArg State.sequential (s.setV_comm r _ b _ hw)
  | orReg x y | andReg x y | xorReg x y =>
    obtain ⟨hx, hy⟩ := not_or.1 hr
    simp only [exec, execOrReg, execAndReg, execXorReg, same hx, same hy]
    exact congrArg State.sequential (s.setV_comm r x b _ hw)
  | addReg x y | subReg x y | subnReg x y =>
    obtain ⟨hx, hy⟩ := not_or.1 hr
    simp only [exec, execAddReg, execSubReg, execSubnReg, same hx, same hy]
    exact congrArg State.sequential (s.setV_setFlag_comm b _ _ hx (not_or.1 hw).2)
  | shr x | shl x =>
    simp only [exec, execShr, execShl, same hr]
    exact congrArg State.sequential (s.setV_setFlag_comm b _ _ hr (not_or.1 hw).2)
  | drw x y n =>
    obtain ⟨hx, hy⟩ := not_or.1 hr
    simp only [exec, execDrw, same hx, same hy, State.drawSprite_setV]
    generalize s.drawSprite _ _ _ = c
    exact congrArg (fun u : State => u.advance.finish c.toggled)
      (State.setV_comm { s with pix := c.pix, rp := s.rp || c.toggled } r VF b _ hw)
  | addIVx x =>
    simp only [exec, execAddIVx, same hr]
    exact congrArg State.sequential ((s.setI (s.i + zextByte (s.getV x))).setV_comm r VF b _ hw)
  | ldVxK x =>
    simp only [exec, execLdVxK, State.lowestKey_setV]
    cases s.lowestKey with
    | none => rfl
    | some k => exact congrArg State.sequential (s.setV_comm r x b _ hw)
  | ldMemVx x =>
    rw [exec, execLdMemVx, s.storeRegs_setV b fun h => hr ((mem_regsUpTo x r).1 h)]
    rfl
  | ldVxMem x =>
    rw [exec, execLdVxMem, s.loadRegs_setV_of_notMem b fun h => hw ((mem_regsUpTo x r).1 h)]
    rfl

/-- A register that an instruction writes without reading it is lost (R14); LD Vx,K writes when a key is pressed. -/
theorem exec_setV_of_not_reads_writes {i : Instr} (s : State) {r : Reg} (b : Byte) (hr : ¬ readsReg i r)
    (hw : writesReg i r) (hkey : ∀ x, i = .ldVxK x → ∃ k, s.keyPressed k = true) : exec i (s.setV r b) = exec i s := by
  have same {q : Reg} (hq : r ≠ q) : (s.setV r b).getV q = s.getV q := s.getV_setV_of_ne b hq.symm
  cases i with
  | ldImm _ _ | ldVxDT _ =>
    cases hw
    exact congrArg State.sequential (s.setV_setV r b _)
  | rnd _ _ =>
    cases hw
    exact congrArg State.sequential (s.drawn.setV_setV r b _)
  | ldReg x y =>
    cases hw
    rw [exec, execLdReg, same hr, s.setV_setV]
    rfl
  | addImm x _ => exact absurd hw hr
  | orReg x y | andReg x y | xorReg x y => exact absurd (Or.inl hw) hr
  | addReg x y | subReg x y | subnReg x y =>
    obtain ⟨hx, hy⟩ := not_or.1 hr
    cases hw.resolve_left hx
    simp only [exec, execAddReg, execSubReg, execSubnReg, same hx, same hy]
    exact congrArg State.sequential (s.setV_setFlag_of_setV_VF x b _ _)
  | shr x | shl x =>
    cases hw.resolve_left hr
    simp only [exec, execShr, execShl, same hr]
    exact congrArg State.sequential (s.setV_setFlag_of_setV_VF x b _ _)
  | drw x y n =>
    cases hw
    obtain ⟨hx, hy⟩ := not_or.1 hr
    simp only [exec, execDrw, same hx, same hy, State.drawSprite_setV]
    generalize s.drawSprite _ _ _ = c
    exact congrArg (fun u : State => u.advance.finish c.toggled)
      (State.setV_setV { s with pix := c.pix, rp := s.rp || c.toggled } VF b _)
  | addIVx x =>
    cases hw
    simp only [exec, execAddIVx, same hr]
    exact congrArg State.sequential ((s.setI (s.i + zextByte (s.getV x))).setV_setV VF b _)
  | ldVxK x =>
    cases hw
    simp only [exec, execLdVxK, State.lowestKey_setV]
    cases hlow : s.lowestKey with
    | none =>
      obtain ⟨k, hk⟩ := hkey r rfl
      exact absurd hk (by rw [s.lowestKey_eq_none.1 hlow k]; decide)
    | some k => exact congrArg State.sequential (s.setV_setV r b _)
  | ldVxMem x =>
    rw [exec, execLdVxMem, s.loadRegs_setV_of_mem b ((mem_regsUpTo x r).2 hw)]
    rfl
  | _ => exact hw.elim

/-- Settles O20: carried through where the instruction does not write the register, lost where it does. -/
theorem registersOutsideTheReadsColumnHaveNoInfluence : Obligations.RegistersOutsideTheReadsColumnHaveNoInfluence := by
  intro i s t r b h hr
  refine ⟨fun hw => ?_, fun hw hkey => (exec_setV_of_not_reads_writes s b hr hw hkey).trans h⟩
  rw [exec_setV_of_not_reads_not_writes s b hr hw, h]
  rfl

end Sys2Proof.Machine

/-!
The memory family: who writes memory, what keeps it canonical, and what the next fetch reads (spec/20_memory.md rules R31, R34,
R36 to R40 and R45).
-/

namespace Sys2Proof.Machine

/-- Settles O16: an instruction leaves the memory `memAfter` names, which is canonical, and an unknown word leaves memory alone. -/
theorem everyStepKeepsMemoryCanonical : Obligations.EveryStepKeepsMemoryCanonical :=
  fun _ _ => step_inv

/-! ### Who writes memory -/

/-- What a byte reads as depends on memory and FONT alone. -/
theorem State.memRead_congr {s t : State} (hmem : t.mem = s.mem) (hfont : t.font = s.font) (a : Nat) :
    t.memRead a = s.memRead a := by
  rw [State.memRead, hmem, hfont]
  rfl

theorem memAfter_eq_mem (s : State) {i : Instr} (hbcd : ∀ x, i ≠ .ldBVx x) (hblock : ∀ x, i ≠ .ldMemVx x) :
    memAfter s i = s.mem := by
  cases i with
  | ldBVx x => exact absurd rfl (hbcd x)
  | ldMemVx x => exact absurd rfl (hblock x)
  | _ => rfl

/-- Settles O22: any other instruction leaves both memory and FONT, on which every read depends. -/
theorem memoryIsWrittenByTheTwoStoresAlone : Obligations.MemoryIsWrittenByTheTwoStoresAlone :=
  fun _ s _ h hbcd hblock =>
    State.memRead_congr ((exec_mem h).trans (memAfter_eq_mem s hbcd hblock)) (exec_font h)

/-! ### The fetch -/

/-- Settles O8: a word is its two bytes, and a read takes its address mod 4096. -/
theorem fetchIsBigEndianAndWrapsAtTheTop : Obligations.FetchIsBigEndianAndWrapsAtTheTop := by
  intro s
  rw [s.memRead_mod, s.memRead_mod]
  exact wordOfBytes_toNat _ _

/-! ### A store under the next fetch -/

/-- After LD [I],Vx each register of the block is read back at its address mod 4096 (R91). -/
theorem exec_ldMemVx_memRead {s t : State} {x r : Reg} (h : exec (.ldMemVx x) s = .next t) (hr : r ≤ x) {a : Nat}
    (ha : a % 4096 = s.indexed r.val % 4096) : t.memRead a = s.getV r := by
  have hfont : t.font = (s.storeRegs (regsUpTo x)).font := (exec_font h).trans (s.storeRegs_font _).symm
  rw [State.memRead_congr (exec_mem h) hfont]
  exact s.memRead_storeRegs_hit _ (regsUpTo_nodup x) r ((mem_regsUpTo x r).2 hr) a ha

/-- Settles O43: the two bytes at the new PC are the bytes where registers k and k + 1 were stored. -/
theorem storeIsSeenByTheNextFetch : Obligations.StoreIsSeenByTheNextFetch := by
  intro s t x k hk h hkx hpc
  have hhi : t.memRead t.pc.toNat = s.getV k := exec_ldMemVx_memRead h (Nat.le_of_succ_le hkx) hpc.symm
  have hnext : (t.pc.toNat + 1) % 4096 = s.indexed (k.val + 1) % 4096 := Nat.ModEq.add_right 1 hpc.symm
  have hlo : t.memRead (t.pc.toNat + 1) = s.getV ⟨k.val + 1, hk⟩ := exec_ldMemVx_memRead h hkx hnext
  rw [State.fetch, hhi, hlo]

end Sys2Proof.Machine

/-!
The encoding family: the row a word matches, decoding and encoding in both directions, the unknown words, and the assembler
(spec/30_encoding.md rules R47 to R60).
-/

namespace Sys2Proof

open Machine (unknownWord)

/-! ### The masks of the dispatch table, as conditions on the keys (R47, R59) -/

theorem land_F000_eq_iff (w m : Word) :
    w &&& 0xF000#16 = m ↔ fieldOp w = m.toNat / 4096 ∧ m.toNat % 4096 = 0 := by
  rw [← BitVec.toNat_inj, land_F000]
  omega

theorem land_F0FF_eq_iff (w m : Word) :
    w &&& 0xF0FF#16 = m ↔ fieldOp w = m.toNat / 4096 ∧ (fieldNN w).toNat = m.toNat % 4096 := by
  rw [← BitVec.toNat_inj, land_F0FF]
  omega

theorem land_F00F_eq_iff (w m : Word) :
    w &&& 0xF00F#16 = m ↔ fieldOp w = m.toNat / 4096 ∧ (fieldN w).val = m.toNat % 4096 := by
  rw [← BitVec.toNat_inj, land_F00F]
  omega

theorem fieldOp_lt (w : Word) : fieldOp w < 16 := by
  unfold fieldOp
  omega

/-! ### The masks of the decoded digits (R52) -/

theorem land_FFFF (w : Word) : w &&& 0xFFFF#16 = w := BitVec.and_allOnes

theorem toNat_land_000F (w : Word) : (w &&& 0x000F#16).toNat = w.toNat % 16 :=
  (BitVec.toNat_and w 0x000F#16).trans (Nat.and_two_pow_sub_one_eq_mod w.toNat 4)

theorem toNat_land_00FF (w : Word) : (w &&& 0x00FF#16).toNat = w.toNat % 256 :=
  (BitVec.toNat_and w 0x00FF#16).trans (Nat.and_two_pow_sub_one_eq_mod w.toNat 8)

theorem land_not (w k : Word) : w &&& ~~~k = w - (w &&& k) := by
  have parts : w &&& (~~~k ||| k) = (w &&& ~~~k) + (w &&& k) := land_add w (~~~k) k (by simp)
  rw [BitVec.or_comm, BitVec.or_not_self, BitVec.and_allOnes] at parts
  exact eq_sub_of_add_eq parts.symm

/-! ### A word put together again from its fields (R49, R50) -/

section Fields

variable {w : Word} {op : Nat}

theorem wordNNN_eq (hop : fieldOp w = op) : wordNNN op (fieldNNN w) = w := by
  rw [← hop]
  apply BitVec.eq_of_toNat_eq
  simp only [wordNNN, fieldOp, fieldNNN, BitVec.toNat_ofNat]
  omega

theorem wordXNN_eq {nn : Byte} (hop : fieldOp w = op) (hnn : (fieldNN w).toNat = nn.toNat) :
    wordXNN op (fieldX w) nn = w := by
  rw [← BitVec.eq_of_toNat_eq hnn, ← hop]
  apply BitVec.eq_of_toNat_eq
  simp only [wordXNN, fieldOp, fieldX, fieldNN, BitVec.toNat_ofNat]
  omega

theorem wordXYN_eq {n : Digit} (hop : fieldOp w = op) (hn : (fieldN w).val = n.val) :
    wordXYN op (fieldX w) (fieldY w) n = w := by
  rw [← Fin.ext hn, ← hop]
  apply BitVec.eq_of_toNat_eq
  simp only [wordXYN, fieldOp, fieldX, fieldY, fieldN, BitVec.toNat_ofNat]
  omega

/-- Where `n` is not decoded. -/
theorem wordXY0_eq_land (hop : fieldOp w = op) : wordXYN op (fieldX w) (fieldY w) 0 = w &&& 0xFFF0#16 := by
  rw [show 0xFFF0#16 = ~~~0x000F#16 by decide, land_not, ← hop]
  apply BitVec.eq_of_toNat_eq
  simp only [BitVec.toNat_sub, toNat_land_000F, wordXYN, fieldOp, fieldX, fieldY, BitVec.toNat_ofNat]
  omega

/-- Where `y` is not decoded. -/
theorem wordX0N_eq_land {n : Digit} (hop : fieldOp w = op) (hn : (fieldN w).val = n.val) :
    wordXYN op (fieldX w) 0 n = w &&& 0xFF0F#16 := by
  rw [show 0xFF0F#16 = ~~~0x00FF#16 ||| 0x000F#16 by decide, land_add w _ _ (by decide), land_not, ← Fin.ext hn, ← hop]
  apply BitVec.eq_of_toNat_eq
  simp only [BitVec.toNat_add, BitVec.toNat_sub, toNat_land_000F, toNat_land_00FF, wordXYN, fieldOp, fieldX, fieldN,
    BitVec.toNat_ofNat]
  omega

end Fields

/-! ### The row of a word, and its operands -/

/-- The word under the mask of the instruction's row is the row's match (R47). -/
abbrev MatchesRow (w : Word) (i : Instr) : Prop := w &&& rowMask i = rowMatch i

/-- The instruction of the same row whose operands are the fields of the word (R49); `decodeWord_eq_ok_iff` is what ties it to the
decoder. -/
def Instr.withFields (w : Word) : Instr → Instr
  | .cls => .cls
  | .ret => .ret
  | .sys => .sys
  | .jp _ => .jp (fieldNNN w)
  | .call _ => .call (fieldNNN w)
  | .seImm _ _ => .seImm (fieldX w) (fieldNN w)
  | .sneImm _ _ => .sneImm (fieldX w) (fieldNN w)
  | .seReg _ _ => .seReg (fieldX w) (fieldY w)
  | .ldImm _ _ => .ldImm (fieldX w) (fieldNN w)
  | .addImm _ _ => .addImm (fieldX w) (fieldNN w)
  | .ldReg _ _ => .ldReg (fieldX w) (fieldY w)
  | .orReg _ _ => .orReg (fieldX w) (fieldY w)
  | .andReg _ _ => .andReg (fieldX w) (fieldY w)
  | .xorReg _ _ => .xorReg (fieldX w) (fieldY w)
  | .addReg _ _ => .addReg (fieldX w) (fieldY w)
  | .subReg _ _ => .subReg (fieldX w) (fieldY w)
  | .shr _ => .shr (fieldX w)
  | .subnReg _ _ => .subnReg (fieldX w) (fieldY w)
  | .shl _ => .shl (fieldX w)
  | .sneReg _ _ => .sneReg (fieldX w) (fieldY w)
  | .ldI _ => .ldI (fieldNNN w)
  | .jpV0 _ => .jpV0 (fieldNNN w)
  | .rnd _ _ => .rnd (fieldX w) (fieldNN w)
  | .drw _ _ _ => .drw (fieldX w) (fieldY w) (fieldN w)
  | .skp _ => .skp (fieldX w)
  | .sknp _ => .sknp (fieldX w)
  | .ldVxDT _ => .ldVxDT (fieldX w)
  | .ldVxK _ => .ldVxK (fieldX w)
  | .ldDTVx _ => .ldDTVx (fieldX w)
  | .ldSTVx _ => .ldSTVx (fieldX w)
  | .addIVx _ => .addIVx (fieldX w)
  | .ldFVx _ => .ldFVx (fieldX w)
  | .ldBVx _ => .ldBVx (fieldX w)
  | .ldMemVx _ => .ldMemVx (fieldX w)
  | .ldVxMem _ => .ldVxMem (fieldX w)

theorem rowMask_withFields (w : Word) (i : Instr) : rowMask (i.withFields w) = rowMask i := by
  cases i <;> rfl

theorem rowMatch_withFields (w : Word) (i : Instr) : rowMatch (i.withFields w) = rowMatch i := by
  cases i <;> rfl

theorem encode_matchesRow (i : Instr) : MatchesRow (encode i) i := by
  unfold MatchesRow
  cases i with
  | cls | ret | sys => decide
  | _ => simp [encode, rowMask, rowMatch, land_F000_eq_iff, land_F0FF_eq_iff, land_F00F_eq_iff]

theorem withFields_encode (i : Instr) : i.withFields (encode i) = i := by
  cases i <;> simp [Instr.withFields, encode]

/-- Putting the fields of a word into its row's pattern gives the word back, but for the digits that are not decoded (R52). The
cases are the rows keyed on `op` alone, on `nn` with every digit decoded, on `nn` with no operand, and on `n`. -/
theorem encode_withFields {w : Word} {i : Instr} (h : MatchesRow w i) : encode (i.withFields w) = w &&& decodedDigits i := by
  cases i with
  | jp _ | call _ | seImm _ _ | sneImm _ _ | seReg _ _ | ldImm _ _ | addImm _ _ | sneReg _ _ | ldI _ | jpV0 _
  | rnd _ _ | drw _ _ _ =>
    obtain ⟨hop, -⟩ := (land_F000_eq_iff w _).1 h
    simp [encode, Instr.withFields, decodedDigits, rowMatch, wordNNN_eq, wordXNN_eq, wordXYN_eq, wordXY0_eq_land,
      land_FFFF, hop]
  | skp _ | sknp _ | ldVxDT _ | ldVxK _ | ldDTVx _ | ldSTVx _ | addIVx _ | ldFVx _ | ldBVx _ | ldMemVx _ | ldVxMem _ =>
    obtain ⟨hop, hnn⟩ := (land_F0FF_eq_iff w _).1 h
    simp [encode, Instr.withFields, decodedDigits, rowMatch, wordXNN_eq, land_FFFF, hop, hnn]
  | cls | ret | sys => exact h.symm
  | ldReg _ _ | orReg _ _ | andReg _ _ | xorReg _ _ | addReg _ _ | subReg _ _ | shr _ | subnReg _ _ | shl _ =>
    obtain ⟨hop, hn⟩ := (land_F00F_eq_iff w _).1 h
    simp [encode, Instr.withFields, decodedDigits, rowMatch, wordXYN_eq, wordX0N_eq_land, land_FFFF, hop, hn]

/-! ### The decoder against the rows -/

/-- A word that matches a row decodes to the instruction of that row with the word's fields. -/
theorem decodeWord_of_matchesRow {w : Word} {i : Instr} (h : MatchesRow w i) : decodeWord w = .ok (i.withFields w) := by
  cases i with
  | jp _ | call _ | seImm _ _ | sneImm _ _ | seReg _ _ | ldImm _ _ | addImm _ _ | sneReg _ _ | ldI _ | jpV0 _
  | rnd _ _ | drw _ _ _ =>
    obtain ⟨hop, -⟩ := (land_F000_eq_iff w _).1 h
    simp [decodeWord, hop, rowMatch, Instr.withFields]
  | cls | ret | sys | skp _ | sknp _ | ldVxDT _ | ldVxK _ | ldDTVx _ | ldSTVx _ | addIVx _ | ldFVx _ | ldBVx _
  | ldMemVx _ | ldVxMem _ =>
    obtain ⟨hop, hnn⟩ := (land_F0FF_eq_iff w _).1 h
    simp [decodeWord, hop, hnn, rowMatch, Instr.withFields]
  | ldReg _ _ | orReg _ _ | andReg _ _ | xorReg _ _ | addReg _ _ | subReg _ _ | shr _ | subnReg _ _ | shl _ =>
    obtain ⟨hop, hn⟩ := (land_F00F_eq_iff w _).1 h
    simp [decodeWord, hop, hn, rowMatch, Instr.withFields]

theorem matchesRow_of_decodeWord {w : Word} {i : Instr} (h : decodeWord w = .ok i) : MatchesRow w i := by
  unfold MatchesRow
  revert h
  fun_cases decodeWord w <;> intro h <;> cases h
  all_goals simp [rowMask, rowMatch, land_F000_eq_iff, land_F0FF_eq_iff, land_F00F_eq_iff, *]

theorem decodeWord_eq_ok_iff {w : Word} {i : Instr} : decodeWord w = .ok i ↔ MatchesRow w i ∧ i.withFields w = i := by
  constructor
  · intro h
    have hrow := matchesRow_of_decodeWord h
    exact ⟨hrow, Except.ok.inj ((decodeWord_of_matchesRow hrow).symm.trans h)⟩
  · rintro ⟨hrow, hi⟩
    rw [decodeWord_of_matchesRow hrow, hi]

/-- Settles O3: a word that matches a row decodes to that row's instruction with the word's fields, which has the same row. -/
theorem decodedWordsMatchTheirRow : Obligations.DecodedWordsMatchTheirRow :=
  ⟨fun _ _ => matchesRow_of_decodeWord, fun w i h =>
    ⟨i.withFields w, decodeWord_of_matchesRow h, rowMask_withFields w i, rowMatch_withFields w i⟩⟩

/-! ### Decode and encode -/

theorem decodeWord_encode (i : Instr) : decodeWord (encode i) = .ok i :=
  decodeWord_eq_ok_iff.2 ⟨encode_matchesRow i, withFields_encode i⟩

theorem decodeBytes_encodeBytes (i : Instr) (rest : List Byte) : decodeBytes (encodeBytes i ++ rest) = .ok (i, rest) := by
  simp [encodeBytes, decodeBytes, wordOfBytes_bytes, decodeWord_encode]

/-- Settles O1: the encoding matches its own row and its fields are the operands. -/
theorem decodeOfEncodeIsTheInstruction : Obligations.DecodeOfEncodeIsTheInstruction :=
  fun i => ⟨decodeWord_encode i, decodeBytes_encodeBytes i⟩

theorem encode_of_decodeWord {w : Word} {i : Instr} (h : decodeWord w = .ok i) : encode i = w &&& decodedDigits i := by
  obtain ⟨hrow, hi⟩ := decodeWord_eq_ok_iff.1 h
  calc encode i = encode (i.withFields w) := by rw [hi]
    _ = w &&& decodedDigits i := encode_withFields hrow

/-- Settles O2: the operands of the decoded instruction are the word's fields. -/
theorem encodeOfDecodeIsTheCanonicalWord : Obligations.EncodeOfDecodeIsTheCanonicalWord :=
  fun _ _ => encode_of_decodeWord

/-- Settles O5: each word is evaluated. -/
theorem specExampleWordsDecode : Obligations.SpecExampleWordsDecode := by
  unfold Obligations.SpecExampleWordsDecode
  decide

/-! ### Unknown words (R53, R54) -/

theorem decodeWord_of_unknownWord {w : Word} (h : unknownWord w) : decodeWord w = .error (.unknownOpcode w) := by
  simp only [unknownWord, List.mem_cons, List.not_mem_nil, not_or, or_false] at h
  obtain ⟨hop, hkey⟩ | ⟨hop, hkey⟩ | ⟨hop, hkey⟩ | ⟨hop, hkey⟩ := h
  · simp [decodeWord, hop, hkey]
  · obtain hn | hn | hn | hn | hn | hn | hn := hkey <;> simp [decodeWord, hop, hn]
  · simp [decodeWord, hop, hkey]
  · simp [decodeWord, hop, hkey]

/-- The branches of the decoder that refuse a word are the four lists of R53; `op` has no value outside its 16 branches. -/
theorem unknownWord_of_decodeWord {w : Word} {e : DecodeError} (h : decodeWord w = .error e) : unknownWord w := by
  simp only [unknownWord, List.mem_cons, List.not_mem_nil, not_or, or_false]
  revert h
  fun_cases decodeWord w <;> intro h
  case case4 hop hE0 hEE h00 => exact .inl ⟨hop, h00, hE0, hEE⟩
  case case21 hop _ _ _ _ _ _ _ _ _ => exact .inr (.inl ⟨hop, by grind⟩)
  case case29 hop h9E hA1 => exact .inr (.inr (.inl ⟨hop, h9E, hA1⟩))
  case case39 hop h07 h0A h15 h18 h1E h29 h33 h55 h65 =>
    exact .inr (.inr (.inr ⟨hop, h07, h0A, h15, h18, h1E, h29, h33, h55, h65⟩))
  case case40 => grind [fieldOp_lt w]
  all_goals cases h

/-- Settles O4: the listed words are refused, and a refused word is listed. -/
theorem unknownWordsAreExactlyThoseListed : Obligations.UnknownWordsAreExactlyThoseListed := by
  refine fun w => ⟨decodeWord_of_unknownWord, fun hw => ?_⟩
  cases hd : decodeWord w with
  | ok i => exact ⟨i, rfl⟩
  | error e => exact absurd (unknownWord_of_decodeWord hd) hw

/-! ### The assembler and the disassembler (R56, R58, R60) -/

theorem Line.row?_line (i : Instr) : i.line.row? = some i := by
  cases i <;> simp [Instr.line, Line.row?, regOf]

theorem assemble_line (i : Instr) : assemble i.line = some (encode i) := by
  have hwf : i.line.wellFormed = true := i.wellFormed_always
  simp [assemble, Line.instr?, hwf, Line.row?_line]

theorem assemble_isSome (l : Line) : (assemble l).isSome = l.wellFormed := by
  rw [assemble, Option.isSome_map, Line.instr?]
  cases hwf : l.wellFormed with
  | true => exact l.row?_isSome_of_wellFormed hwf
  | false => rfl

theorem disassemble_assemble? {w : Word} {i : Instr} (h : decodeWord w = .ok i) :
    (disassemble w).assemble? = some (w &&& decodedDigits i) := by
  rw [← encode_of_decodeWord h, ← assemble_line, disassemble, h]
  rfl

/-- Settles O6: what a decoded word is printed as assembles to its canonical word. -/
theorem assemblyRoundTripsOnCanonicalWords : Obligations.AssemblyRoundTripsOnCanonicalWords := by
  refine ⟨assemble_line, assemble_isSome, fun w i h => ?_⟩
  rw [disassemble_assemble? h, Option.some_inj]

end Sys2Proof

/-!
The step and control-flow family: what a step executes, how each class of instruction moves PC, and the jump, call, return and skip
instructions (spec/40_step_and_flow.md rules R61 to R72).
-/

namespace Sys2Proof.Machine

/-! ### A step -/

theorem step_of_decodeWord {s : State} {i : Instr} (h : decodeWord s.fetch = .ok i) : step s = exec i s := by
  rw [step, h]

theorem step_of_unknownWord {s : State} (h : unknownWord s.fetch) : step s = s.raise .unknownOpcode := by
  rw [step, decodeWord_of_unknownWord h]

/-- Settles O7: the fetch is exactly those two bytes. -/
theorem stepRunsTheDecodedInstruction : Obligations.StepRunsTheDecodedInstruction :=
  fun _ _ => step_of_decodeWord

theorem exec_exists_next (i : Instr) (s : State) : ∃ t, exec i s = .next t := by
  obtain ⟨t, ht, -, -⟩ := exec_next_memAfter_font i s
  exact ⟨t, ht⟩

/-- A decoded instruction completes, and so does the raise of UnknownOpcode (R61, R114). -/
theorem step_exists_next (s : State) : ∃ t, step s = .next t := by
  obtain ⟨i, -, hi⟩ | ⟨-, hr⟩ := step_cases s
  · rw [hi]
    exact exec_exists_next i s
  · exact ⟨_, hr⟩

/-- Settles O9: every instruction completes, so every step does, and the host is given the state of the step. -/
theorem everyInstructionAndStepCompletes : Obligations.EveryInstructionAndStepCompletes := by
  refine ⟨exec_exists_next, fun s => ?_⟩
  obtain ⟨t, ht⟩ := step_exists_next s
  exact ⟨t, ht, (transact_step_eq_next_iff s t _).2 ⟨ht, rfl⟩⟩

/-! ### The instructions that can do one of two things -/

theorem exec_ret_of_sp_eq_zero {s : State} (h : s.sp.val = 0) : exec .ret s = s.raise .stackUnderflow :=
  dif_pos h

/-- RET with a frame in use (R65). -/
theorem exec_ret_of_sp_pos {s : State} (h : 0 < s.sp.val) :
    exec .ret s = ((s.setSp ⟨s.sp.val - 1, by omega⟩).setPc (s.stk.get ⟨s.sp.val - 1, by omega⟩ + 2)).finish false :=
  dif_neg h.ne'

/-- CALL with a frame free (R67). -/
theorem exec_call_of_sp_lt {s : State} (nnn : Imm12) (h : s.sp.val < 16) :
    exec (.call nnn) s = (((s.setStk ⟨s.sp.val, h⟩ s.pc).setSp ⟨s.sp.val + 1, by omega⟩).setPc (zextAddress nnn)).finish false :=
  dif_pos h

theorem exec_call_of_sp_eq {s : State} (nnn : Imm12) (h : s.sp = 16) : exec (.call nnn) s = s.raise .stackOverflow :=
  dif_neg (by rw [h]; decide)

/-- LD Vx,K with a key pressed (R103). -/
theorem exec_ldVxK_of_keyPressed {s : State} (x : Reg) (h : ∃ k, s.keyPressed k = true) :
    ∃ k : Digit, exec (.ldVxK x) s = (s.setV x (BitVec.ofNat 8 k.val)).sequential := by
  cases hlow : s.lowestKey with
  | none =>
    obtain ⟨k, hk⟩ := h
    exact absurd hk (by rw [s.lowestKey_eq_none.1 hlow k]; decide)
  | some k => exact ⟨k, by rw [exec, execLdVxK, hlow]⟩

theorem exec_ldVxK_of_no_key {s : State} (x : Reg) (h : ¬ ∃ k, s.keyPressed k = true) :
    exec (.ldVxK x) s = s.finish false := by
  have hlow : s.lowestKey = none := s.lowestKey_eq_none.2 fun k => Bool.eq_false_iff.2 fun hk => h ⟨k, hk⟩
  rw [exec, execLdVxK, hlow]

/-! ### PC after an instruction (R63) -/

@[simp] theorem State.storeRegs_pc (s : State) (rs : List Reg) : (s.storeRegs rs).pc = s.pc := by
  rw [s.storeRegs_eq]

@[simp] theorem State.loadRegs_pc (s : State) (rs : List Reg) : (s.loadRegs rs).pc = s.pc := by
  rw [s.loadRegs_eq]

/-- PC moves by the class of the instruction: those with two endings by their ending, a skip by its condition, the rest as they are
written. -/
theorem exec_pc {i : Instr} {s t : State} (h : exec i s = .next t) : t.pc = pcAfter s i := by
  cases i with
  | ret =>
    by_cases h0 : s.sp.val = 0
    · cases (exec_ret_of_sp_eq_zero h0).symm.trans h
      rw [pcAfter, dif_pos h0]
    · cases (exec_ret_of_sp_pos (Nat.pos_of_ne_zero h0)).symm.trans h
      rw [pcAfter, dif_neg h0]
      rfl
  | call nnn =>
    by_cases h16 : s.sp = 16
    · cases (exec_call_of_sp_eq nnn h16).symm.trans h
      exact (if_pos h16).symm
    · cases (exec_call_of_sp_lt nnn (by omega)).symm.trans h
      exact (if_neg h16).symm
  | ldVxK x =>
    by_cases hkey : ∃ k, s.keyPressed k = true
    · obtain ⟨k, hk⟩ := exec_ldVxK_of_keyPressed x hkey
      cases hk.symm.trans h
      exact (if_pos hkey).symm
    · cases (exec_ldVxK_of_no_key x hkey).symm.trans h
      exact (if_neg hkey).symm
  | seImm _ _ | sneImm _ _ | seReg _ _ | sneReg _ _ | skp _ | sknp _ =>
    cases h
    simp [pcAfter]
  | ldMemVx x =>
    cases h
    exact congrArg (· + 2) (s.storeRegs_pc (regsUpTo x))
  | ldVxMem x =>
    cases h
    exact congrArg (· + 2) (s.loadRegs_pc (regsUpTo x))
  | _ =>
    cases h
    rfl

/-- Settles O18: the instructions by their class, and an unknown word by its raise, which leaves PC. -/
theorem pcAdvancesByClass : Obligations.PcAdvancesByClass := by
  refine ⟨fun _ _ _ => exec_pc, fun s t hw h => ?_⟩
  cases (step_of_unknownWord hw).symm.trans h
  rfl

/-! ### Jumps and skips: PC and nothing else -/

/-- A step that sets PC alone and ends with status OK leaves the rest of the machine as it was. -/
theorem State.exists_next_of_setPc (s : State) (w : Word) :
    ∃ t, (s.setPc w).finish false = .next t ∧ t.pc = w ∧ SameRegs s t ∧ SameButRegsPc s t ∧ EndedOk t :=
  ⟨_, rfl, rfl, fun _ => rfl,
    ⟨rfl, fun _ => rfl, ⟨rfl, fun _ => rfl⟩, ⟨fun _ _ => rfl, rfl⟩, fun _ => rfl, ⟨rfl, rfl⟩, rfl⟩, rfl, rfl⟩

/-- A skip goes where its condition says and leaves the rest of the machine as it was (R63). -/
theorem State.exists_next_of_skipIf (s : State) {c : Bool} {w : Word} (hw : (if c then s.pc + 4 else s.pc + 2) = w) :
    ∃ t, (s.skipIf c).finish false = .next t ∧ t.pc = w ∧ SameRegs s t ∧ SameButRegsPc s t ∧ EndedOk t :=
  hw ▸ s.exists_next_of_setPc _

/-- A jump goes to its target, the next fetch is of the same memory there, and the rest of the machine is as it was (R34, R63). -/
theorem State.exists_next_of_jump (s : State) {w : Word} {a : Nat} (hw : w.toNat = a) :
    ∃ t, (s.setPc w).finish false = .next t ∧ t.pc.toNat = a ∧ t.fetch = wordOfBytes (s.memRead a) (s.memRead (a + 1)) ∧
      SameRegs s t ∧ SameButRegsPc s t ∧ EndedOk t := by
  obtain ⟨t, ht, -, hframe⟩ := s.exists_next_of_setPc w
  cases ht
  exact ⟨_, rfl, hw, hw ▸ rfl, hframe⟩

/-- The digit `x` of SYS and RET is not decoded (R52). -/
theorem decodeWord_sys_ret (d : Reg) :
    decodeWord (wordXNN 0x0 d 0x00) = .ok .sys ∧ decodeWord (wordXNN 0x0 d 0xEE) = .ok .ret := by
  simp [decodeWord]

/-- Settles O25: SYS sets PC alone. -/
theorem sysOnlyAdvances : Obligations.SysOnlyAdvances :=
  ⟨fun d => (decodeWord_sys_ret d).1, fun s => s.exists_next_of_setPc (s.pc + 2)⟩

/-- Settles O26: JP sets PC alone, to nnn. -/
theorem jpGoesToItsAddress : Obligations.JpGoesToItsAddress :=
  ⟨fun nnn => decodeWord_encode (.jp nnn), fun s nnn => s.exists_next_of_jump (zextAddress_toNat nnn)⟩

/-- The sum of JP V0,nnn is at most 0x10FE, so it never wraps (R72). -/
theorem zextAddress_add_zextByte_toNat (nnn : Imm12) (b : Byte) :
    (zextAddress nnn + zextByte b).toNat = nnn.toNat + b.toNat := by
  rw [BitVec.toNat_add, zextAddress_toNat, zextByte_toNat]
  omega

/-- Settles O27: JP V0 sets PC alone, to the exact sum; a read takes its address mod 4096. -/
theorem jpV0AddsRegisterZero : Obligations.JpV0AddsRegisterZero := by
  refine ⟨fun nnn => decodeWord_encode (.jpV0 nnn), fun s nnn => ?_⟩
  rw [s.memRead_mod, s.memRead_mod]
  exact s.exists_next_of_jump (zextAddress_add_zextByte_toNat nnn (s.getV 0))

/-- The digit `n` of the two register skips is not decoded (R52). -/
theorem decodeWord_register_skips (x y : Reg) (n : Digit) :
    decodeWord (wordXYN 0x5 x y n) = .ok (.seReg x y) ∧ decodeWord (wordXYN 0x9 x y n) = .ok (.sneReg x y) := by
  simp [decodeWord]

/-- Settles O30: each skip sets PC alone, by its condition. -/
theorem registerSkipsTestTheirCondition : Obligations.RegisterSkipsTestTheirCondition :=
  ⟨fun x nn => ⟨decodeWord_encode (.seImm x nn), decodeWord_encode (.sneImm x nn)⟩, decodeWord_register_skips,
    fun s _ _ => s.exists_next_of_skipIf (by simp), fun s _ _ => s.exists_next_of_skipIf (by simp),
    fun s _ _ => s.exists_next_of_skipIf (by simp), fun s _ _ => s.exists_next_of_skipIf (by simp)⟩

/-! ### CALL and RET -/

/-- A raised error leaves the whole machine as it was (R113). -/
theorem State.exists_next_of_raise (s : State) (e : Status) :
    ∃ t, s.raise e = .next t ∧ SameMachine s t ∧ t.status = e ∧ t.changed = false :=
  ⟨_, rfl, ⟨rfl, fun _ => rfl, rfl, fun _ => rfl, ⟨rfl, fun _ => rfl⟩, ⟨fun _ _ => rfl, rfl⟩, fun _ => rfl, ⟨rfl, rfl⟩, rfl⟩,
    rfl, rfl⟩

/-- Settles O28: the entry at SP is the old PC and the other entries are as before; at depth 16 it is a raise. -/
theorem callPushesItsOwnAddress : Obligations.CallPushesItsOwnAddress := by
  refine ⟨fun nnn => decodeWord_encode (.call nnn), fun s nnn h => ?_, fun s nnn h => ?_⟩
  · refine ⟨_, exec_call_of_sp_lt nnn h, (s.stk_get_setStk _ _ _).trans (if_pos rfl), fun k hk => ?_, rfl,
      zextAddress_toNat nnn, fun _ => rfl, rfl, fun _ => rfl, ⟨fun _ _ => rfl, rfl⟩, fun _ => rfl, ⟨rfl, rfl⟩, rfl, rfl, rfl⟩
    exact (s.stk_get_setStk _ _ _).trans (if_neg fun e => hk (congrArg Fin.val e))
  · rw [exec_call_of_sp_eq nnn h]
    exact s.exists_next_of_raise .stackOverflow

/-- The document's law (R65): the popped entry is the one the CALL pushed. -/
theorem exec_call_ret {s : State} (nnn : Imm12) (h : s.sp.val < 16) :
    ∃ t u, exec (.call nnn) s = .next t ∧ exec .ret t = .next u ∧ u.pc = s.pc + 2 ∧ u.sp = s.sp :=
  ⟨_, _, exec_call_of_sp_lt nnn h, exec_ret_of_sp_pos (Nat.succ_pos _),
    congrArg (· + 2) ((s.stk_get_setStk ⟨s.sp.val, h⟩ _ s.pc).trans (if_pos rfl)), rfl⟩

/-- Settles O29: with a frame in use RET writes SP and PC alone; at SP = 0 it is a raise. -/
theorem retReturnsPastTheCall : Obligations.RetReturnsPastTheCall := by
  refine ⟨fun d => (decodeWord_sys_ret d).2, fun s h => ?_, fun s h => ?_, fun s nnn => exec_call_ret nnn⟩
  · exact ⟨_, exec_ret_of_sp_pos h, rfl, BitVec.toNat_add _ _, fun _ => rfl, fun _ => rfl, rfl, fun _ => rfl,
      ⟨fun _ _ => rfl, rfl⟩, fun _ => rfl, ⟨rfl, rfl⟩, rfl, rfl, rfl⟩
  · rw [exec_ret_of_sp_eq_zero (congrArg Fin.val h)]
    exact s.exists_next_of_raise .stackUnderflow

end Sys2Proof.Machine

/-!
The load, arithmetic, logic, shift and random family: what each instruction leaves in V[x] and VF, and that PC + 2 is all else it
changes (spec/41_alu.md rules R75 to R86).
-/

namespace Sys2Proof.Machine

/-! ### A result in V[x] and nothing else -/

/-- A step that writes V[x], then advances, leaves every other register and the rest of the machine as it was (R63). -/
theorem State.exists_next_of_setV (s : State) (x : Reg) (b : Byte) :
    ∃ t, (s.setV x b).sequential = .next t ∧ t.getV x = b ∧ SameRegsBut x s t ∧ t.pc = s.pc + 2 ∧ SameButRegsPc s t ∧
      EndedOk t := by
  obtain ⟨t, ht, hpc, hregs, hframe⟩ := (s.setV x b).exists_next_of_setPc (s.pc + 2)
  exact ⟨t, ht, (hregs x).trans ((s.getV_setV x x b).trans (if_pos rfl)),
    fun r hr => (hregs r).trans (s.getV_setV_of_ne b hr), hpc, hframe⟩

/-- The same, for a result given bit by bit. -/
theorem State.exists_next_of_setV_bits (s : State) (x : Reg) {b : Byte} {bit : Nat → Bool} (hb : ∀ k, b.getLsbD k = bit k) :
    ∃ t, (s.setV x b).sequential = .next t ∧ (∀ k, k < 8 → (t.getV x).getLsbD k = bit k) ∧ SameRegsBut x s t ∧
      t.pc = s.pc + 2 ∧ SameButRegsPc s t ∧ EndedOk t := by
  obtain ⟨t, ht, hx, hframe⟩ := s.exists_next_of_setV x b
  exact ⟨t, ht, fun k _ => hx ▸ hb k, hframe⟩

/-- Settles O31: each writes V[x] alone; byte addition is mod 256. -/
theorem immediateLoadAndAdd : Obligations.ImmediateLoadAndAdd := by
  refine ⟨fun x nn => ⟨decodeWord_encode (.ldImm x nn), decodeWord_encode (.addImm x nn)⟩,
    fun s x nn => s.exists_next_of_setV x nn, fun s x nn => ?_⟩
  obtain ⟨t, ht, hx, hframe⟩ := s.exists_next_of_setV x (s.getV x + nn)
  exact ⟨t, ht, hx ▸ BitVec.toNat_add _ _, hframe⟩

/-- Settles O32: each writes V[x] alone; the logic is bit by bit. -/
theorem registerMoveAndLogic : Obligations.RegisterMoveAndLogic :=
  ⟨fun x y => ⟨decodeWord_encode (.ldReg x y), decodeWord_encode (.orReg x y), decodeWord_encode (.andReg x y),
      decodeWord_encode (.xorReg x y)⟩,
    fun s x y => s.exists_next_of_setV x (s.getV y), fun s x _ => s.exists_next_of_setV_bits x fun _ => BitVec.getLsbD_or,
    fun s x _ => s.exists_next_of_setV_bits x fun _ => BitVec.getLsbD_and,
    fun s x _ => s.exists_next_of_setV_bits x fun _ => BitVec.getLsbD_xor⟩

/-- Settles O36: RND is a masked write of V[x] on the state with the draw counted, whose other fields are those of `s`. -/
theorem rndMasksAFreshDraw : Obligations.RndMasksAFreshDraw := by
  refine ⟨fun x nn => decodeWord_encode (.rnd x nn), fun s x nn => ?_⟩
  obtain ⟨t, ht, hx, hregs, hpc, ⟨hi, hmem, hstack, hdisplay, hkeys, htimers, hdraws⟩, hok⟩ :=
    s.drawn.exists_next_of_setV x (s.draw &&& nn)
  refine ⟨t, ht, fun k _ => hx ▸ BitVec.getLsbD_and, ?_, hdraws, hregs, hpc, hi, hmem, hstack, hdisplay, hkeys, htimers, hok⟩
  rw [hx, BitVec.toNat_and]
  exact Nat.and_le_right

/-! ### A result in V[x], then the flag in VF -/

/-- A result-then-flag step leaves the result in V[x] unless that is VF, the flag in VF always, and the rest of the machine as it was
(R13, R74). -/
theorem State.exists_next_of_resultThenFlag (s : State) (x : Reg) {b flag : Byte} {n : Nat} {f : Bool} (hb : b.toNat = n)
    (hf : flagByte f = flag) :
    ∃ t, s.resultThenFlag x b f = .next t ∧ (x ≠ VF → (t.getV x).toNat = n) ∧ t.getV VF = flag ∧ SameRegsButFlag x s t ∧
      t.pc = s.pc + 2 ∧ SameButRegsPc s t ∧ EndedOk t := by
  obtain ⟨t, ht, hflag, hregs, hpc, hframe⟩ := (s.setV x b).exists_next_of_setV VF (flagByte f)
  refine ⟨t, ht, fun hx => ?_, hflag.trans hf, fun r hr hrf => (hregs r hrf).trans (s.getV_setV_of_ne b hr), hpc, hframe⟩
  rw [hregs x hx, s.getV_setV, if_pos rfl, hb]

/-- A flag that is a comparison, as a byte. -/
theorem flagByte_decide (p : Prop) [Decidable p] : flagByte (decide p) = if p then 1 else 0 := by
  simp [flagByte]

/-- Settles O33: the flag compares the sum of the old values with 255. -/
theorem addSetsTheCarry : Obligations.AddSetsTheCarry :=
  ⟨fun x y => decodeWord_encode (.addReg x y),
    fun s x _ => s.exists_next_of_resultThenFlag x (BitVec.toNat_add _ _) (flagByte_decide _)⟩

theorem toNat_sub_byte (a b : Byte) : (a - b).toNat = (a.toNat + 256 - b.toNat) % 256 := by
  rw [BitVec.toNat_sub]
  omega

/-- Settles O34: SUB and SUBN are one subtraction with the operands exchanged. -/
theorem subtractionsSetNotBorrow : Obligations.SubtractionsSetNotBorrow :=
  ⟨fun x y => ⟨decodeWord_encode (.subReg x y), decodeWord_encode (.subnReg x y)⟩,
    fun s x _ => s.exists_next_of_resultThenFlag x (toNat_sub_byte _ _) (flagByte_decide _),
    fun s x _ => s.exists_next_of_resultThenFlag x (toNat_sub_byte _ _) (flagByte_decide _)⟩

/-! ### Shifts -/

/-- The digit `y` of SHR and SHL is not decoded (R52). -/
theorem decodeWord_shifts (x y : Reg) :
    decodeWord (wordXYN 0x8 x y 0x6) = .ok (.shr x) ∧ decodeWord (wordXYN 0x8 x y 0xE) = .ok (.shl x) := by
  simp [decodeWord]

theorem toNat_shiftRight_one (b : Byte) : (b >>> 1).toNat = b.toNat / 2 :=
  BitVec.toNat_ushiftRight b 1

theorem toNat_shiftLeft_one (b : Byte) : (b <<< 1).toNat = b.toNat * 2 % 256 := by
  rw [BitVec.toNat_shiftLeft, Nat.shiftLeft_eq]

/-- A bit of a byte, as the byte VF holds, is that binary digit of the number. -/
theorem toNat_flagByte_getLsbD (b : Byte) (k : Nat) : (flagByte (b.getLsbD k)).toNat = b.toNat / 2 ^ k % 2 := by
  rw [← Nat.toNat_testBit, ← BitVec.testBit_toNat]
  cases b.toNat.testBit k <;> rfl

theorem toNat_flagByte_lowBit (b : Byte) : (flagByte (lowBit b)).toNat = b.toNat % 2 := by
  rw [lowBit, toNat_flagByte_getLsbD, Nat.pow_zero, Nat.div_one]

theorem toNat_flagByte_highBit (b : Byte) : (flagByte (highBit b)).toNat = b.toNat / 128 := by
  rw [highBit, toNat_flagByte_getLsbD]
  omega

/-- Settles O35: the shifts write V[x] and VF from the old V[x] alone. -/
theorem shiftsByOneSetTheBitShiftedOut : Obligations.ShiftsByOneSetTheBitShiftedOut := by
  refine ⟨decodeWord_shifts, fun s x => ?_, fun s x => ?_⟩
  · obtain ⟨t, ht, hx, hflag, hframe⟩ :=
      s.exists_next_of_resultThenFlag x (toNat_shiftRight_one (s.getV x)) (f := lowBit (s.getV x)) rfl
    exact ⟨t, ht, hx, hflag ▸ toNat_flagByte_lowBit _, hframe⟩
  · obtain ⟨t, ht, hx, hflag, hframe⟩ :=
      s.exists_next_of_resultThenFlag x (toNat_shiftLeft_one (s.getV x)) (f := highBit (s.getV x)) rfl
    exact ⟨t, ht, hx, hflag ▸ toNat_flagByte_highBit _, hframe⟩

end Sys2Proof.Machine

/-!
The index-register and memory family: what LD I,nnn, ADD I,Vx and LD F,Vx leave in I, which bytes LD B,Vx and LD [I],Vx write and
which registers LD Vx,[I] loads, and that nothing else changes (spec/42_index_memory.md rules R87 to R92).
-/

namespace Sys2Proof.Machine

/-! ### I and nothing else -/

/-- A step that writes I, then advances, leaves the registers, memory and the rest of the machine as they were (R63). -/
theorem State.exists_next_of_setI (s : State) {w : Word} {n : Nat} (hw : w.toNat = n) :
    ∃ t, (s.setI w).sequential = .next t ∧ t.i.toNat = n ∧ SameRegs s t ∧ t.pc = s.pc + 2 ∧ SameMemory s t ∧
      SameDevices s t ∧ EndedOk t := by
  obtain ⟨t, ht, hpc, hregs, ⟨hi, hmem, hdevices⟩, hok⟩ := (s.setI w).exists_next_of_setPc (s.pc + 2)
  exact ⟨t, ht, hi ▸ hw, hregs, hpc, hmem, hdevices, hok⟩

/-- Settles O37: both write I alone; neither value wraps at 16 bits. -/
theorem indexLoads : Obligations.IndexLoads :=
  ⟨fun nnn => decodeWord_encode (.ldI nnn), fun x => decodeWord_encode (.ldFVx x),
    fun s nnn => s.exists_next_of_setI (zextAddress_toNat nnn),
    fun s x => s.exists_next_of_setI (glyphAddress_toNat (s.getV x))⟩

/-! ### I, then the flag in VF -/

theorem toNat_add_zextByte (i : Word) (b : Byte) : (i + zextByte b).toNat = (i.toNat + b.toNat) % 65536 := by
  rw [BitVec.toNat_add, zextByte_toNat]

/-- Settles O38: a write of VF on the state with the sum in I; the flag compares the exact sum of the old values. -/
theorem addIndexFlagsAboveTwelveBits : Obligations.AddIndexFlagsAboveTwelveBits := by
  refine ⟨fun x => decodeWord_encode (.addIVx x), fun s x => ?_⟩
  obtain ⟨t, ht, hflag, hregs, hpc, ⟨hi, hmem, hdevices⟩, hok⟩ :=
    (s.setI (s.i + zextByte (s.getV x))).exists_next_of_setV VF (flagByte (indexOverflow s.i (s.getV x)))
  exact ⟨t, ht, hi ▸ toNat_add_zextByte s.i (s.getV x), hflag.trans (flagByte_decide _), hregs, hpc, hmem, hdevices, hok⟩

/-! ### Digits in memory -/

/-- A byte after LD B,Vx: a digit at each of the three addresses, the old byte everywhere else (R90). -/
theorem exec_ldBVx_memRead {s t : State} {x : Reg} (h : exec (.ldBVx x) s = .next t) (a : Nat) :
    t.memRead a =
      if a % 4096 = s.indexed 2 % 4096 then ones (s.getV x)
      else if a % 4096 = s.indexed 1 % 4096 then tens (s.getV x)
      else if a % 4096 = s.indexed 0 % 4096 then hundreds (s.getV x)
      else s.memRead a := by
  have hfont : t.font = s.font := exec_font h
  rw [← State.memRead_memWrite, ← State.memRead_memWrite, ← State.memRead_memWrite]
  exact State.memRead_congr (exec_mem h) hfont a

/-- Settles O39: the three addresses differ mod 4096, so each keeps its digit; no other byte is written. -/
theorem bcdStoresThreeDigits : Obligations.BcdStoresThreeDigits := by
  refine ⟨fun x => decodeWord_encode (.ldBVx x), fun s x => ?_⟩
  have h01 : s.indexed 0 % 4096 ≠ s.indexed 1 % 4096 := (s.indexed_inj 0 1).mt (by decide)
  have h02 : s.indexed 0 % 4096 ≠ s.indexed 2 % 4096 := (s.indexed_inj 0 2).mt (by decide)
  have h12 : s.indexed 1 % 4096 ≠ s.indexed 2 % 4096 := (s.indexed_inj 1 2).mt (by decide)
  obtain ⟨t, ht, hpc, hregs, ⟨hi, -, hdevices⟩, hok⟩ :=
    (((s.memWrite (s.indexed 0) (hundreds (s.getV x))).memWrite (s.indexed 1) (tens (s.getV x))).memWrite (s.indexed 2)
      (ones (s.getV x))).exists_next_of_setPc (s.pc + 2)
  have hmem := exec_ldBVx_memRead (x := x) ht
  refine ⟨t, ht, ?_, ?_, ?_, fun a ha => ?_, hi, hregs, hpc, hdevices, hok⟩
  · rw [hmem, if_neg h02, if_neg h01, if_pos rfl, hundreds_toNat]
  · rw [hmem, if_neg h12, if_pos rfl, tens_toNat]
  · rw [hmem, if_pos rfl, ones_toNat]
  · rw [hmem, if_neg (ha 2 (by decide)), if_neg (ha 1 (by decide)), if_neg (ha 0 (by decide))]

/-! ### Blocks of registers -/

/-- The end of a block transfer: I past the block, then PC + 2; a block that wrote at most registers and memory leaves the rest of
the machine as it was (R91, R92). -/
theorem State.exists_next_of_block (s : State) (x : Reg) {u : State} {v : Vector Byte 16} {mem : Memory}
    (hu : u = { s with v := v, mem := mem }) :
    ∃ t, (u.setI (s.pastBlock x)).sequential = .next t ∧ t.i.toNat = (s.i.toNat + x.val + 1) % 65536 ∧ SameRegs u t ∧
      t.pc = s.pc + 2 ∧ SameMemory u t ∧ SameDevices s t ∧ EndedOk t := by
  subst hu
  exact State.exists_next_of_setI _ (pastBlock_toNat s x)

/-- Settles O40: the block store writes memory alone, each register at its own address. -/
theorem blockStoreWritesEachRegister : Obligations.BlockStoreWritesEachRegister := by
  refine ⟨fun x => decodeWord_encode (.ldMemVx x), fun s x => ?_⟩
  have hstore := s.storeRegs_eq (regsUpTo x)
  obtain ⟨t, ht, hi, hregs, hpc, hmem, hdevices, hok⟩ := s.exists_next_of_block x hstore
  rw [hstore] at hregs
  refine ⟨t, ht, fun k hk => exec_ldMemVx_memRead ht hk rfl, fun a ha => ?_, hi, hregs, hpc, hdevices, hok⟩
  rw [hmem]
  exact s.memRead_storeRegs_miss _ (regsUpTo_nodup x) a fun r hr => ha r ((mem_regsUpTo x r).1 hr)

/-- Settles O41: the block load writes registers alone, each from its own address. -/
theorem blockLoadReadsEachRegister : Obligations.BlockLoadReadsEachRegister := by
  refine ⟨fun x => decodeWord_encode (.ldVxMem x), fun s x => ?_⟩
  have hload := s.loadRegs_eq (regsUpTo x)
  obtain ⟨t, ht, hi, hregs, hpc, hmem, hdevices, hok⟩ := s.exists_next_of_block x hload
  rw [hload] at hmem
  refine ⟨t, ht, fun k hk => ?_, fun k hk => ?_, hi, hpc, hmem, hdevices, hok⟩
  · rw [hregs, s.getV_loadRegs, if_pos ((mem_regsUpTo x k).2 hk)]
  · rw [hregs, s.getV_loadRegs, if_neg fun h => hk.not_ge ((mem_regsUpTo x k).1 h)]

/-- Settles O42: the load reads register k at the address where the store put it, and both put I past the same block. -/
theorem blockLoadUndoesBlockStore : Obligations.BlockLoadUndoesBlockStore := by
  intro s x
  obtain ⟨t, ht, hstored, -, hti, -⟩ := blockStoreWritesEachRegister.2 s x
  refine ⟨t, ht, fun v => ?_⟩
  obtain ⟨u, hu, hloaded, -, hui, -⟩ := blockLoadReadsEachRegister.2 { t with i := s.i, v := v } x
  exact ⟨u, hu, fun k hk => (hloaded k hk).trans (hstored k hk), BitVec.eq_of_toNat_eq (hui.trans hti.symm)⟩

end Sys2Proof.Machine

/-!
The display family: the pixel a number names, what CLS and DRW leave on the display and in VF, the `changed` result of a step, and
the host's writes to single fields (spec/43_display.md rules R94 to R100, spec/44_keys_timers.md R110).
-/

namespace Sys2Proof.Machine

/-! ### Pixels by number and by coordinates (R23) -/

/-- Pixel y·64 + x is column x of row y. -/
theorem State.pixel_coords (s : State) {px : Nat} (hx : px < 64) (py : Nat) : s.pixel (py * 64 + px) = pixelAt s.pix px py := by
  rw [State.pixel, show (py * 64 + px) % 64 = px by omega, show (py * 64 + px) / 64 = py by omega]

/-- Every pixel number is that of a column and a row. -/
theorem exists_coords {k : Nat} (hk : k < 2048) : ∃ px py, px < 64 ∧ py < 32 ∧ py * 64 + px = k :=
  ⟨k % 64, k / 64, by omega, by omega, by omega⟩

/-! ### The host's writes -/

/-- A row of the bitmap read holds its pixels bit by bit (R94, R98). -/
theorem State.getLsbD_readDisplay (s : State) {px py : Nat} (hx : px < 64) (hy : py < 32) :
    (s.readDisplay.get ⟨py, hy⟩).getLsbD px = s.pixel (py * 64 + px) := by
  simp only [s.pixel_coords hx, pixelAt, Nat.mod_eq_of_lt hx, Nat.mod_eq_of_lt hy, State.readDisplay]

/-- Settles O53: the latch reads back as set, RP is cleared alone, and the bitmap returned is the display. -/
theorem hostWritesTouchOnlyTheirField : Obligations.HostWritesTouchOnlyTheirField :=
  ⟨fun s k p => ⟨s.setKey k p, rfl, (s.keyPressed_setKey k k p).trans (if_pos rfl),
      fun j hj => (s.keyPressed_setKey k j p).trans (if_neg hj), s.setKey_eq k p⟩,
    fun s => ⟨s.clearRedraw, rfl, s.clearRedraw_eq⟩,
    fun s => ⟨s.readDisplay, rfl, fun _ _ hy hx => s.getLsbD_readDisplay hx hy⟩⟩

/-! ### CLS -/

/-- The digit `x` of CLS is not decoded (R52). -/
theorem decodeWord_cls (d : Reg) : decodeWord (wordXNN 0x0 d 0xE0) = .ok .cls := by
  simp [decodeWord]

/-- CLS leaves the blank display of reset. -/
theorem exec_cls_pixel {s t : State} (h : exec .cls s = .next t) (k : Nat) : t.pixel k = false := by
  cases h
  exact s.pixel_hostReset k

/-- Settles O44: CLS writes the display, RP and PC alone. -/
theorem clsBlanksTheDisplay : Obligations.ClsBlanksTheDisplay :=
  ⟨decodeWord_cls, fun _ => ⟨_, rfl, fun k _ => exec_cls_pixel rfl k, rfl, rfl, rfl, fun _ => rfl, rfl, rfl, fun _ => rfl,
    ⟨rfl, fun _ => rfl⟩, fun _ => rfl, ⟨rfl, rfl⟩, rfl⟩⟩

/-! ### DRW -/

/-- Which pixels a sprite covers is settled by I and memory. -/
theorem State.spriteCovers_congr {s t : State} (hi : t.i = s.i) (hmem : SameMemory s t) : t.spriteCovers = s.spriteCovers := by
  funext vx vy n px py
  simp only [State.spriteCovers, State.indexed, hi, hmem _]

theorem State.spriteCovers_mod (s : State) (vx vy n px py : Nat) :
    s.spriteCovers vx vy n (px % 64) (py % 32) ↔ s.spriteCovers vx vy n px py := by
  simp only [State.spriteCovers, Nat.mod_mod]

/-- The collision, by pixels of the display: a covered pixel that was on before (R96). -/
theorem State.drawSprite_hit_iff_exists_pixel (s : State) (vx vy n : Nat) (hn : n < 16) :
    (s.drawSprite vx vy n).hit = true ↔
      ∃ px py, px < 64 ∧ py < 32 ∧ s.spriteCovers vx vy n px py ∧ s.pixel (py * 64 + px) = true := by
  rw [s.drawSprite_hit vx vy n hn]
  constructor
  · rintro ⟨px, py, hcov, hon⟩
    have hx : px % 64 < 64 := Nat.mod_lt _ (by decide)
    refine ⟨px % 64, py % 32, hx, Nat.mod_lt _ (by decide), (s.spriteCovers_mod ..).2 hcov, ?_⟩
    rw [s.pixel_coords hx, pixelAt_mod, hon]
  · rintro ⟨px, py, hx, -, hcov, hon⟩
    exact ⟨px, py, hcov, (s.pixel_coords hx py).symm.trans hon⟩

section Drw

variable {s t : State} {x y : Reg} {n : Digit}

theorem exec_drw_pixel_of_covers (h : exec (.drw x y n) s = .next t) {px py : Nat} (hx : px < 64)
    (hcov : s.spriteCovers (s.getV x).toNat (s.getV y).toNat n.val px py) :
    t.pixel (py * 64 + px) = !s.pixel (py * 64 + px) := by
  rw [t.pixel_coords hx, s.pixel_coords hx]
  cases h
  exact s.drawSprite_covered _ _ _ px py n.isLt hcov

theorem exec_drw_pixel_of_not_covers (h : exec (.drw x y n) s = .next t) {px py : Nat} (hx : px < 64)
    (hcov : ¬ s.spriteCovers (s.getV x).toNat (s.getV y).toNat n.val px py) :
    t.pixel (py * 64 + px) = s.pixel (py * 64 + px) := by
  rw [t.pixel_coords hx, s.pixel_coords hx]
  cases h
  exact s.drawSprite_uncovered _ _ _ px py n.isLt hcov

/-- VF after DRW is the collision, whichever register VF was before (R96, C2). -/
theorem exec_drw_getV_VF (h : exec (.drw x y n) s = .next t) :
    t.getV VF = flagByte (s.drawSprite (s.getV x).toNat (s.getV y).toNat n.val).hit := by
  obtain ⟨t', ht', hflag⟩ := State.exists_next_of_setFlag _ _ _
  cases ht'.symm.trans h
  exact hflag

theorem exec_drw_getV_VF_eq_one (h : exec (.drw x y n) s = .next t)
    (hon : ∃ px py, px < 64 ∧ py < 32 ∧ s.spriteCovers (s.getV x).toNat (s.getV y).toNat n.val px py ∧
      s.pixel (py * 64 + px) = true) : t.getV VF = 1 := by
  rw [exec_drw_getV_VF h, (s.drawSprite_hit_iff_exists_pixel _ _ _ n.isLt).2 hon]
  rfl

theorem exec_drw_getV_VF_eq_zero (h : exec (.drw x y n) s = .next t)
    (hoff : ∀ px py, px < 64 → py < 32 → s.spriteCovers (s.getV x).toNat (s.getV y).toNat n.val px py →
      s.pixel (py * 64 + px) = false) : t.getV VF = 0 := by
  have hhit : (s.drawSprite (s.getV x).toNat (s.getV y).toNat n.val).hit = false := by
    rw [← Bool.not_eq_true, s.drawSprite_hit_iff_exists_pixel _ _ _ n.isLt]
    rintro ⟨px, py, hx, hy, hcov, hon⟩
    exact Bool.false_ne_true ((hoff px py hx hy hcov).symm.trans hon)
  rw [exec_drw_getV_VF h, hhit]
  rfl

theorem exec_drw_changed_iff_exists_bit (h : exec (.drw x y n) s = .next t) :
    t.changed = true ↔ ∃ row col, row < n.val ∧ col < 8 ∧ spriteBit (s.memRead (s.indexed row)) col = true := by
  cases h
  exact s.drawSprite_toggled _ _ _ n.isLt

end Drw

/-- Settles O45: the sprite's pixels, the collision and the toggle as the sprite engine gives them; DRW writes the display, RP, VF
and PC alone. -/
theorem drwXorsTheSpriteAndReportsCollision : Obligations.DrwXorsTheSpriteAndReportsCollision := by
  refine ⟨fun x y n => decodeWord_encode (.drw x y n), fun s x y n => ?_⟩
  obtain ⟨t, ht⟩ := exec_exists_next (.drw x y n) s
  refine ⟨t, ht, fun px py hx _ => ⟨exec_drw_pixel_of_covers ht hx, exec_drw_pixel_of_not_covers ht hx⟩,
    exec_drw_getV_VF_eq_one ht, exec_drw_getV_VF_eq_zero ht, exec_drw_changed_iff_exists_bit ht, ?_⟩
  have hregs : SameRegsBut VF s t := fun _ => exec_getV_of_not_writesReg ht
  cases ht
  exact ⟨rfl, rfl, hregs, rfl, rfl, fun _ => rfl, ⟨rfl, fun _ => rfl⟩, fun _ => rfl, ⟨rfl, rfl⟩, rfl⟩

/-- Settles O46: both drawings cover the same pixels, so each covered pixel is inverted twice; the second meets a pixel that is on
exactly where the first met one that was off. -/
theorem drawingTwiceRestoresTheDisplay : Obligations.DrawingTwiceRestoresTheDisplay := by
  intro s x y n hxF hyF
  obtain ⟨t, ht, hpix, -, -, -, -, -, hregs, -, hi, hmem, -⟩ := drwXorsTheSpriteAndReportsCollision.2 s x y n
  obtain ⟨u, hu, hpix', hhit, hmiss, -⟩ := drwXorsTheSpriteAndReportsCollision.2 t x y n
  rw [hregs x hxF, hregs y hyF, State.spriteCovers_congr hi hmem] at hpix' hhit hmiss
  refine ⟨t, u, ht, hu, fun k hk => ?_, ?_, fun hon => hmiss fun px py hx hy hcov => ?_⟩
  · obtain ⟨px, py, hx, hy, rfl⟩ := exists_coords hk
    by_cases hcov : s.spriteCovers (s.getV x).toNat (s.getV y).toNat n.val px py
    · rw [(hpix' px py hx hy).1 hcov, (hpix px py hx hy).1 hcov, Bool.not_not]
    · rw [(hpix' px py hx hy).2 hcov, (hpix px py hx hy).2 hcov]
  · rintro ⟨px, py, hx, hy, hcov, hoff⟩
    exact hhit ⟨px, py, hx, hy, hcov, by rw [(hpix px py hx hy).1 hcov, hoff, Bool.not_false]⟩
  · rw [(hpix px py hx hy).1 hcov, hon px py hx hy hcov, Bool.not_true]

/-- Settles O47: on the blank display a covered pixel is inverted from off, and there is none on to hit. -/
theorem drawingOnABlankDisplayShowsTheSprite : Obligations.DrawingOnABlankDisplayShowsTheSprite := by
  intro s x y n
  obtain ⟨t, ht, -, -, -, -, hregs, -, hi, hmem, -⟩ := clsBlanksTheDisplay.2 s
  obtain ⟨u, hu, hpix, -, hmiss, -⟩ := drwXorsTheSpriteAndReportsCollision.2 t x y n
  have blank (k : Nat) : t.pixel k = false := exec_cls_pixel ht k
  refine ⟨t, u, ht, hu, hmiss fun px py _ _ _ => blank _, fun px py hx hy => ?_⟩
  rw [hregs x, hregs y, State.spriteCovers_congr hi hmem] at hpix
  by_cases hcov : s.spriteCovers (s.getV x).toNat (s.getV y).toNat n.val px py
  · simp only [(hpix px py hx hy).1 hcov, blank, Bool.not_false, hcov]
  · simp only [(hpix px py hx hy).2 hcov, blank, Bool.false_eq_true, hcov]

/-! ### The `changed` result (R100) -/

/-- DRW reports a change exactly when it left some pixel different: a set sprite bit inverts its target, and only covered pixels
change (R97 c). -/
theorem exec_drw_changed_iff_exists_pixel {s t : State} {x y : Reg} {n : Digit} (h : exec (.drw x y n) s = .next t) :
    t.changed = true ↔ ∃ k, k < 2048 ∧ t.pixel k ≠ s.pixel k := by
  rw [exec_drw_changed_iff_exists_bit h]
  constructor
  · rintro ⟨row, col, hrow, hcol, hbit⟩
    have hx : ((s.getV x).toNat + col) % 64 < 64 := Nat.mod_lt _ (by decide)
    have hy : ((s.getV y).toNat + row) % 32 < 32 := Nat.mod_lt _ (by decide)
    have hinv := exec_drw_pixel_of_covers h hx ((s.spriteCovers_mod ..).2 ⟨row, col, hrow, hcol, hbit, rfl, rfl⟩)
    exact ⟨_, by omega, hinv ▸ Bool.not_ne_self _⟩
  · rintro ⟨k, hk, hne⟩
    obtain ⟨px, py, hx, -, rfl⟩ := exists_coords hk
    obtain ⟨row, col, hrow, hcol, hbit, -⟩ := not_not.1 (mt (exec_drw_pixel_of_not_covers h hx) hne)
    exact ⟨row, col, hrow, hcol, hbit⟩

/-- No other instruction reports a change. -/
theorem exec_changed_eq_false {i : Instr} {s t : State} (h : exec i s = .next t) (hcls : i ≠ .cls)
    (hdrw : ∀ x y n, i ≠ .drw x y n) : t.changed = false := by
  cases i with
  | cls => exact absurd rfl hcls
  | drw x y n => exact absurd rfl (hdrw x y n)
  | ret =>
    rw [exec, execRet] at h
    split at h <;> cases h <;> rfl
  | call nnn =>
    rw [exec, execCall] at h
    split at h <;> cases h <;> rfl
  | ldVxK x =>
    rw [exec, execLdVxK] at h
    split at h <;> cases h <;> rfl
  | _ =>
    cases h
    rfl

theorem exec_changed_iff {i : Instr} {s t : State} (h : exec i s = .next t) :
    t.changed = true ↔ i = .cls ∨ (∃ x y n, i = .drw x y n) ∧ ∃ k, k < 2048 ∧ t.pixel k ≠ s.pixel k := by
  by_cases hcls : i = .cls
  · subst hcls
    cases h
    exact iff_of_true rfl (.inl rfl)
  · rw [or_iff_right hcls]
    by_cases hdrw : ∃ x y n, i = .drw x y n
    · rw [and_iff_right hdrw]
      obtain ⟨x, y, n, rfl⟩ := hdrw
      exact exec_drw_changed_iff_exists_pixel h
    · have hfalse := exec_changed_eq_false h hcls fun x y n e => hdrw ⟨x, y, n, e⟩
      exact iff_of_false (Bool.eq_false_iff.1 hfalse) fun hd => hdrw hd.1

/-- An instruction sets RP exactly when it reports a change, and leaves it otherwise (R99, R100). -/
theorem exec_rp {i : Instr} {s t : State} (h : exec i s = .next t) : t.rp = (s.rp || t.changed) := by
  by_cases hcls : i = .cls
  · subst hcls
    cases h
    exact (Bool.or_true _).symm
  · by_cases hdrw : ∃ x y n, i = .drw x y n
    · obtain ⟨x, y, n, rfl⟩ := hdrw
      cases h
      rfl
    · have hother (x y : Reg) (n : Digit) : i ≠ .drw x y n := fun e => hdrw ⟨x, y, n, e⟩
      rw [exec_changed_eq_false h hcls hother, Bool.or_false]
      exact (exec_sameDisplay h hcls hother).2

/-- The same of a step; an unknown word raises, which reports no change and leaves RP (R113). -/
theorem step_rp {s t : State} (h : step s = .next t) : t.rp = (s.rp || t.changed) := by
  obtain ⟨i, -, hi⟩ | ⟨-, hr⟩ := step_cases s
  · exact exec_rp (hi.symm.trans h)
  · cases hr.symm.trans h
    exact (Bool.or_false _).symm

theorem step_changed_iff {s t : State} (h : step s = .next t) :
    t.changed = true ↔ decodeWord s.fetch = .ok .cls ∨
      (∃ x y n, decodeWord s.fetch = .ok (.drw x y n)) ∧ ∃ k, k < 2048 ∧ t.pixel k ≠ s.pixel k := by
  obtain ⟨i, hd, hi⟩ | ⟨⟨e, hd⟩, hr⟩ := step_cases s
  · simpa only [hd, Except.ok.injEq] using exec_changed_iff (hi.symm.trans h)
  · cases hr.symm.trans h
    simp [hd]

/-- Settles O13: `changed` by the instruction executed, RP by the one law of all steps. -/
theorem changedReportsADisplayChange : Obligations.ChangedReportsADisplayChange := by
  intro s t h
  refine ⟨step_changed_iff h, fun hc => ?_, fun hc => ?_⟩
  · rw [step_rp h, hc, Bool.or_true]
  · rw [step_rp h, hc, Bool.or_false]

end Sys2Proof.Machine

/-!
The keys and timers family: the key skips, the key wait and the timer loads, and what ticks of the timers do, alone, in a row and
around a step (spec/44_keys_timers.md rules R101 to R111).
-/

namespace Sys2Proof.Machine

/-! ### Keys -/

/-- Settles O48: each skip sets PC alone, by the key V[x] mod 16. -/
theorem keySkipsTestTheKeyLatch : Obligations.KeySkipsTestTheKeyLatch := by
  refine ⟨fun x => ⟨decodeWord_encode (.skp x), decodeWord_encode (.sknp x)⟩, fun s x k hk => ?_, fun s x k hk => ?_⟩
  · obtain rfl : k = keyNamed (s.getV x) := Fin.ext hk
    exact s.exists_next_of_skipIf rfl
  · obtain rfl : k = keyNamed (s.getV x) := Fin.ext hk
    exact s.exists_next_of_skipIf (by cases s.keyPressed (keyNamed (s.getV x)) <;> rfl)

/-- LD Vx,K with `k` the least key pressed (R103). -/
theorem exec_ldVxK_of_lowestKey {s : State} (x : Reg) {k : Digit} (h : s.lowestKey = some k) :
    exec (.ldVxK x) s = (s.setV x (BitVec.ofNat 8 k.val)).sequential := by
  rw [exec, execLdVxK, h]

/-- Settles O49: a write of V[x] with the least key; with no key, PC is set to itself and nothing else is written. -/
theorem keyWaitTakesTheLeastPressedKey : Obligations.KeyWaitTakesTheLeastPressedKey := by
  refine ⟨fun x => decodeWord_encode (.ldVxK x), fun s x k hk hlt => ?_, fun s x hnone => ?_⟩
  · have hnum : (BitVec.ofNat 8 k.val).toNat = k.val := Nat.mod_eq_of_lt (by omega)
    rw [exec_ldVxK_of_lowestKey x ((s.lowestKey_eq_some k).2 ⟨hk, hlt⟩)]
    obtain ⟨t, ht, hx, hframe⟩ := s.exists_next_of_setV x (BitVec.ofNat 8 k.val)
    exact ⟨t, ht, hx ▸ hnum, hframe⟩
  · rw [exec_ldVxK_of_no_key x (by simp [hnone])]
    obtain ⟨t, ht, hpc, hregs, hrest, hok⟩ := s.exists_next_of_setPc s.pc
    exact ⟨t, ht, ⟨hpc, hregs, hrest⟩, hok⟩

/-! ### Loads from and to the timers -/

/-- Settles O50: a write of V[x], or PC + 2 on the state with the one timer written. -/
theorem timerMoves : Obligations.TimerMoves := by
  refine ⟨fun x => ⟨decodeWord_encode (.ldVxDT x), decodeWord_encode (.ldDTVx x), decodeWord_encode (.ldSTVx x)⟩,
    fun s x => s.exists_next_of_setV x s.dt, fun s x => ?_, fun s x => ?_⟩
  · obtain ⟨t, ht, hpc, hregs, ⟨hi, hmem, hstack, hdisplay, hkeys, ⟨hdt, hst⟩, hdraws⟩, hok⟩ :=
      (s.setDt (s.getV x)).exists_next_of_setPc (s.pc + 2)
    exact ⟨t, ht, hdt, hst, hregs, hpc, hi, hmem, hstack, hdisplay, hkeys, hdraws, hok⟩
  · obtain ⟨t, ht, hpc, hregs, ⟨hi, hmem, hstack, hdisplay, hkeys, ⟨hdt, hst⟩, hdraws⟩, hok⟩ :=
      (s.setSt (s.getV x)).exists_next_of_setPc (s.pc + 2)
    exact ⟨t, ht, hst, hdt, hregs, hpc, hi, hmem, hstack, hdisplay, hkeys, hdraws, hok⟩

/-! ### Ticks -/

/-- The tone request, as the number ST held before the tick (R109). -/
theorem State.tick_tone (s : State) : s.tick.2 = decide (s.st.toNat = 1) :=
  decide_eq_decide.2 BitVec.toNat_inj.symm

theorem transact_tick (s : State) : transact s .tick = .next (s.tick.1, .ticked (decide (s.st.toNat = 1))) := by
  rw [transact, s.tick_tone]

/-- Settles O51: a tick writes the two timers alone. -/
theorem tickCountsBothTimersDown : Obligations.TickCountsBothTimersDown :=
  fun s => ⟨s.tick.1, transact_tick s, countDown_toNat s.dt, countDown_toNat s.st, rfl, fun _ => rfl, rfl, fun _ => rfl,
    ⟨rfl, fun _ => rfl⟩, ⟨fun _ _ => rfl, rfl⟩, fun _ => rfl, rfl⟩

/-- A run is its first transaction, then the rest on the state that left (R9, R111). -/
theorem runTransactions_cons_of_next {s t u : State} {a : Transaction} {r : Response} {ts : List Transaction}
    {rs : List Response} (hfirst : transact s a = .next (t, r)) (hrest : runTransactions t ts = .next (u, rs)) :
    runTransactions s (a :: ts) = .next (u, r :: rs) := by
  simp only [runTransactions, hfirst, hrest]

/-- Settles O52: by induction on the number of ticks. The first tick requests the tone where ST is 1; the rest are a run from
ST - 1, which requests it where ST was 2 or more. -/
theorem toneIsRequestedOncePerCountdown : Obligations.ToneIsRequestedOncePerCountdown := by
  intro s n
  induction n generalizing s with
  | zero => exact ⟨s, [], rfl, rfl, rfl, rfl, (if_neg (by omega)).symm⟩
  | succ n ih =>
    obtain ⟨u, rs, hrun, hdt, hst, hlen, hcount⟩ := ih s.tick.1
    have hdt1 : s.tick.1.dt.toNat = s.dt.toNat - 1 := countDown_toNat s.dt
    have hst1 : s.tick.1.st.toNat = s.st.toNat - 1 := countDown_toNat s.st
    refine ⟨u, _, runTransactions_cons_of_next (transact_tick s) hrun, by omega, by omega, congrArg (· + 1) hlen, ?_⟩
    by_cases h1 : s.st.toNat = 1
    · rw [decide_eq_true h1, List.count_cons_self, hcount, if_neg (by omega), if_pos (by omega)]
    · rw [decide_eq_false h1, List.count_cons_of_ne (by decide), hcount, hst1]
      split_ifs <;> omega

/-! ### A tick around a step -/

/-- Write both timers (R24, R25). -/
def State.setTimers (s : State) (d b : Byte) : State := (s.setDt d).setSt b

theorem State.tick_eq_setTimers (s : State) : s.tick.1 = s.setTimers (countDown s.dt) (countDown s.st) := rfl

theorem State.storeRegs_setTimers (s : State) (d b : Byte) (rs : List Reg) :
    (s.setTimers d b).storeRegs rs = (s.storeRegs rs).setTimers d b :=
  List.foldl_hom (fun t : State => t.setTimers d b) fun _ _ => rfl

theorem State.loadRegs_setTimers (s : State) (d b : Byte) (rs : List Reg) :
    (s.setTimers d b).loadRegs rs = (s.loadRegs rs).setTimers d b :=
  List.foldl_hom (fun t : State => t.setTimers d b) fun _ _ => rfl

/-- The timers are carried through every instruction that neither reads nor writes one. -/
theorem exec_setTimers {i : Instr} (s : State) (d b : Byte) (hread : ∀ x, i ≠ .ldVxDT x) (hdt : ∀ x, i ≠ .ldDTVx x)
    (hst : ∀ x, i ≠ .ldSTVx x) : exec i (s.setTimers d b) = mapNext (·.setTimers d b) (exec i s) := by
  cases i with
  | ldVxDT x => exact absurd rfl (hread x)
  | ldDTVx x => exact absurd rfl (hdt x)
  | ldSTVx x => exact absurd rfl (hst x)
  | ret =>
    by_cases h0 : s.sp.val = 0
    · rw [exec_ret_of_sp_eq_zero h0, exec_ret_of_sp_eq_zero (s := s.setTimers d b) h0]
      rfl
    · have hpos : 0 < s.sp.val := Nat.pos_of_ne_zero h0
      rw [exec_ret_of_sp_pos hpos, exec_ret_of_sp_pos (s := s.setTimers d b) hpos]
      rfl
  | call nnn =>
    by_cases h16 : s.sp = 16
    · rw [exec_call_of_sp_eq nnn h16, exec_call_of_sp_eq (s := s.setTimers d b) nnn h16]
      rfl
    · have hlt : s.sp.val < 16 := by omega
      rw [exec_call_of_sp_lt nnn hlt, exec_call_of_sp_lt (s := s.setTimers d b) nnn hlt]
      rfl
  | ldVxK x =>
    cases hlow : s.lowestKey with
    | some k =>
      rw [exec_ldVxK_of_lowestKey x hlow, exec_ldVxK_of_lowestKey (s := s.setTimers d b) x hlow]
      rfl
    | none =>
      have hnone : ¬ ∃ k, s.keyPressed k = true := by simp [s.lowestKey_eq_none.1 hlow]
      rw [exec_ldVxK_of_no_key x hnone, exec_ldVxK_of_no_key (s := s.setTimers d b) x hnone]
      rfl
  | ldMemVx x =>
    rw [exec, execLdMemVx, s.storeRegs_setTimers]
    rfl
  | ldVxMem x =>
    rw [exec, execLdVxMem, s.loadRegs_setTimers]
    rfl
  | _ => rfl

/-- A tick commutes with an instruction that neither reads nor writes a timer, which leaves both counts to tick from. -/
theorem exec_tick {i : Instr} {s t : State} (h : exec i s = .next t) (hread : ∀ x, i ≠ .ldVxDT x)
    (hdt : ∀ x, i ≠ .ldDTVx x) (hst : ∀ x, i ≠ .ldSTVx x) : exec i s.tick.1 = .next t.tick.1 := by
  rw [s.tick_eq_setTimers, exec_setTimers s _ _ hread hdt hst, h, t.tick_eq_setTimers, exec_dt_eq h hdt, exec_st_eq h hst]
  rfl

/-- Settles O24: a tick does not move the fetch, so both orders execute the same instruction, or both raise UnknownOpcode. -/
theorem tickCommutesWithStepsThatMoveNoTimer : Obligations.TickCommutesWithStepsThatMoveNoTimer := by
  intro s t hread hdt hst h
  have hfetch : s.tick.1.fetch = s.fetch := rfl
  obtain ⟨i, hd, hi⟩ | ⟨⟨e, hd⟩, hr⟩ := step_cases s
  · rw [step_of_decodeWord (hfetch ▸ hd)]
    rw [hd] at hread hdt hst
    exact exec_tick (hi.symm.trans h) (fun x e => hread x (congrArg _ e)) (fun x e => hdt x (congrArg _ e))
      fun x e => hst x (congrArg _ e)
  · rw [step_of_unknownWord (hfetch ▸ unknownWord_of_decodeWord hd)]
    cases hr.symm.trans h
    rfl

end Sys2Proof.Machine

/-!
The errors family: what makes a step raise, that a raise is precise and recurs, and that a stall outlives the host's requests
(spec/60_exceptions.md rules R112 to R116 and R120).
-/

namespace Sys2Proof.Machine

/-! ### The causes of the errors (R112, R120) -/

/-- What has to hold for the next step to raise an error: the "cause" column of R112. -/
def State.ErrorCause (s : State) : Status → Prop
  | .ok => False
  | .unknownOpcode => unknownWord s.fetch
  | .stackOverflow => s.sp = 16 ∧ ∃ nnn, decodeWord s.fetch = .ok (.call nnn)
  | .stackUnderflow => s.sp = 0 ∧ decodeWord s.fetch = .ok .ret

theorem State.ErrorCause.ne_ok {s : State} {e : Status} (h : s.ErrorCause e) : e ≠ .ok := by
  rintro rfl
  exact h

theorem step_of_errorCause {s : State} {e : Status} (h : s.ErrorCause e) : step s = s.raise e := by
  cases e with
  | ok => exact h.elim
  | unknownOpcode => exact step_of_unknownWord h
  | stackOverflow =>
    obtain ⟨hsp, nnn, hd⟩ := h
    exact (step_of_decodeWord hd).trans (exec_call_of_sp_eq nnn hsp)
  | stackUnderflow =>
    obtain ⟨hsp, hd⟩ := h
    exact (step_of_decodeWord hd).trans (exec_ret_of_sp_eq_zero (congrArg Fin.val hsp))

/-- RET and CALL are the only instructions that raise, each at one end of the stack. -/
theorem exec_raise_cases {i : Instr} {s t : State} (h : exec i s = .next t) (herr : t.status ≠ .ok) :
    (i = .ret ∧ s.sp = 0 ∧ t.status = .stackUnderflow) ∨
      ∃ nnn, i = .call nnn ∧ s.sp = 16 ∧ t.status = .stackOverflow := by
  cases i with
  | ret =>
    by_cases h0 : s.sp.val = 0
    · cases (exec_ret_of_sp_eq_zero h0).symm.trans h
      exact .inl ⟨rfl, Fin.ext h0, rfl⟩
    · cases (exec_ret_of_sp_pos (Nat.pos_of_ne_zero h0)).symm.trans h
      exact absurd rfl herr
  | call nnn =>
    by_cases h16 : s.sp = 16
    · cases (exec_call_of_sp_eq nnn h16).symm.trans h
      exact .inr ⟨nnn, rfl, h16, rfl⟩
    · cases (exec_call_of_sp_lt nnn (by omega)).symm.trans h
      exact absurd rfl herr
  | ldVxK x =>
    rw [exec, execLdVxK] at h
    split at h <;> cases h <;> exact absurd rfl herr
  | _ =>
    cases h
    exact absurd rfl herr

theorem errorCause_of_step {s t : State} (h : step s = .next t) (herr : t.status ≠ .ok) : s.ErrorCause t.status := by
  obtain ⟨i, hd, hi⟩ | ⟨⟨e, hd⟩, hr⟩ := step_cases s
  · obtain ⟨rfl, hsp, hst⟩ | ⟨nnn, rfl, hsp, hst⟩ := exec_raise_cases (hi.symm.trans h) herr
    · rw [hst]
      exact ⟨hsp, hd⟩
    · rw [hst]
      exact ⟨hsp, nnn, hd⟩
  · cases hr.symm.trans h
    exact unknownWord_of_decodeWord hd

theorem step_status_eq_iff {s t : State} {e : Status} (h : step s = .next t) (he : e ≠ .ok) :
    t.status = e ↔ s.ErrorCause e := by
  constructor
  · rintro rfl
    exact errorCause_of_step h he
  · intro hc
    cases (step_of_errorCause hc).symm.trans h
    rfl

/-- Settles O11: the cause of each status. -/
theorem errorsHaveExactlyTheirCauses : Obligations.ErrorsHaveExactlyTheirCauses :=
  fun _ _ h => ⟨step_status_eq_iff h (by decide), step_status_eq_iff h (by decide), step_status_eq_iff h (by decide)⟩

/-- Settles O57: the host is given the status of the step, and a status is told by its code. -/
theorem stepReturnsItsStatusCode : Obligations.StepReturnsItsStatusCode := by
  intro s
  obtain ⟨t, ht⟩ := step_exists_next s
  obtain ⟨hunknown, hoverflow, hunderflow⟩ := errorsHaveExactlyTheirCauses s t ht
  have hle : t.status.code ≤ 3 := t.status.code_le
  exact ⟨t, t.status, t.changed, (transact_step_eq_next_iff s t _).2 ⟨ht, rfl⟩,
    (Status.code_inj _ .unknownOpcode).trans hunknown, (Status.code_inj _ .stackOverflow).trans hoverflow,
    (Status.code_inj _ .stackUnderflow).trans hunderflow, by omega⟩

/-! ### A raise is precise and recurs (R113) -/

/-- Settles O10: a raise moves neither the fetch nor SP, so the cause still holds for the next step. -/
theorem errorsArePreciseAndRecur : Obligations.ErrorsArePreciseAndRecur := by
  intro s t h herr
  have hcause : s.ErrorCause t.status := errorCause_of_step h herr
  have ht : t = { s with status := t.status, changed := false } :=
    Host.Outcome.next.inj (h.symm.trans (step_of_errorCause hcause))
  have hcause' : t.ErrorCause t.status := by
    rw [ht]
    exact hcause
  refine ⟨ht, (step_of_errorCause hcause').trans ?_⟩
  rw [t.raise_eq, ht]

/-! ### A stall outlives the host's requests (R113 to R116) -/

theorem stalledOn_iff_errorCause {s : State} {e : Status} : s.StalledOn e ↔ s.ErrorCause e :=
  ⟨fun ⟨he, h⟩ => errorCause_of_step h he, fun h => ⟨h.ne_ok, step_of_errorCause h⟩⟩

/-- The registers, PC, memory and the stack are as before: what a stalled core keeps. -/
def SameProgramState (s t : State) : Prop := t.pc = s.pc ∧ SameRegs s t ∧ SameMemory s t ∧ SameStack s t

theorem SameProgramState.trans {s t u : State} (hst : SameProgramState s t) (htu : SameProgramState t u) :
    SameProgramState s u := by
  obtain ⟨hpc, hregs, hmem, hsp, hstk⟩ := hst
  obtain ⟨hpc', hregs', hmem', hsp', hstk'⟩ := htu
  exact ⟨hpc'.trans hpc, fun r => (hregs' r).trans (hregs r), fun a => (hmem' a).trans (hmem a), hsp'.trans hsp,
    fun k => (hstk' k).trans (hstk k)⟩

theorem SameProgramState.fetch_eq {s t : State} (h : SameProgramState s t) : t.fetch = s.fetch := by
  obtain ⟨hpc, -, hmem, -⟩ := h
  rw [State.fetch, hpc, hmem, hmem, State.fetch]

/-- The causes of the errors are the word at PC and SP, and nothing else. -/
theorem SameProgramState.errorCause_iff {s t : State} (h : SameProgramState s t) (e : Status) :
    t.ErrorCause e ↔ s.ErrorCause e := by
  have hfetch : t.fetch = s.fetch := h.fetch_eq
  obtain ⟨-, -, -, hsp, -⟩ := h
  cases e <;> simp only [State.ErrorCause, hfetch, hsp]

/-- A request other than `reset` and `loadProgram` to a stalled core: only a step has a status to report, and it raises. -/
theorem transact_of_stalledOn {s : State} {e : Status} {a : Transaction} (h : s.StalledOn e) (hreset : a ≠ .reset)
    (hload : ∀ image, a ≠ .loadProgram image) :
    ∃ t r, transact s a = .next (t, r) ∧ SameProgramState s t ∧ ∀ st ch, r = .stepped st ch → st = e ∧ ch = false := by
  cases a with
  | reset => exact absurd rfl hreset
  | loadProgram image => exact absurd rfl (hload image)
  | step =>
    obtain ⟨-, hraise⟩ := h
    obtain ⟨t, ht, ⟨hpc, hregs, -, hmem, hstack, -⟩, hst, hch⟩ := s.exists_next_of_raise e
    refine ⟨t, _, (transact_step_eq_next_iff s t _).2 ⟨hraise.trans ht, rfl⟩, ⟨hpc, hregs, hmem, hstack⟩, ?_⟩
    rintro st ch ⟨⟩
    exact ⟨hst, hch⟩
  | tick | setKey k pressed | clearRedraw | readDisplay =>
    exact ⟨_, _, rfl, ⟨rfl, fun _ => rfl, fun _ => rfl, rfl, fun _ => rfl⟩, fun _ _ hr => nomatch hr⟩

/-- Settles O12: by induction on the requests; each leaves the cause of the error in place. -/
theorem stallOutlivesEverythingButResetAndLoad : Obligations.StallOutlivesEverythingButResetAndLoad := by
  intro s e h ts hreset hload
  induction ts generalizing s with
  | nil =>
    exact ⟨s, [], rfl, h, rfl, fun _ => rfl, fun _ => rfl, ⟨rfl, fun _ => rfl⟩, fun _ _ hr => nomatch hr⟩
  | cons a ts ih =>
    simp only [List.mem_cons, not_or, forall_and, ne_comm (b := a)] at hreset hload
    obtain ⟨hreset, hresets⟩ := hreset
    obtain ⟨hload, hloads⟩ := hload
    obtain ⟨t, r, hfirst, hst, hr⟩ := transact_of_stalledOn h hreset hload
    have ht : t.StalledOn e := stalledOn_iff_errorCause.2 ((hst.errorCause_iff e).2 (stalledOn_iff_errorCause.1 h))
    obtain ⟨u, rs, hrest, hu, hpc, hregs, hmem, hstack, hrs⟩ := ih t ht hresets hloads
    obtain ⟨hpc', hregs', hmem', hstack'⟩ := hst.trans ⟨hpc, hregs, hmem, hstack⟩
    refine ⟨u, r :: rs, runTransactions_cons_of_next hfirst hrest, hu, hpc', hregs', hmem', hstack', fun st ch hin => ?_⟩
    obtain hhead | htail := List.mem_cons.1 hin
    · exact hr st ch hhead.symm
    · exact hrs st ch htail

end Sys2Proof.Machine

/-!
The reset and hazards family: a program that has jumped to itself, the program load, and the boot sequence
(spec/70_reset_and_hazards.md rules R131, R133 and R135, spec/60_exceptions.md rule R117).
-/

namespace Sys2Proof.Machine

/-! ### A finished program (R135) -/

/-- A JP to PC leaves PC as it is, so the step writes its two results alone. -/
theorem step_of_finished {s : State} (h : s.Finished) : step s = s.finish false := by
  obtain ⟨nnn, hd, hpc⟩ := h
  calc step s
    _ = exec (.jp nnn) s := step_of_decodeWord hd
    _ = (s.setPc (zextAddress nnn)).finish false := rfl
    _ = s.finish false := by rw [hpc, State.setPc]

/-- A step has one status: OK, or the error the core is stalled on. -/
theorem State.StepsSafely.not_stalledOn {s : State} (h : s.StepsSafely) (e : Status) : ¬ s.StalledOn e := by
  rintro ⟨he, hraise⟩
  obtain ⟨t, ht, hok⟩ := h
  cases hraise.symm.trans ht
  exact he hok

/-- Settles O14: a step at a JP to itself ends with status OK and writes nothing else. -/
theorem finishedStateStaysAsItIs : Obligations.FinishedStateStaysAsItIs := by
  intro s h
  have hstep : step s = s.finish false := step_of_finished h
  exact ⟨hstep, State.StepsSafely.not_stalledOn ⟨_, hstep, rfl⟩⟩

/-! ### The program load (R117, R131) -/

/-- Settles O54: the longest image ends at the top of memory, so the copy does not wrap. -/
theorem loadProgramCopiesTheImageOrRefusesIt : Obligations.LoadProgramCopiesTheImageOrRefusesIt := by
  refine ⟨fun s image hlen => ?_, fun s image hlen => ?_⟩
  · have hfit : 0x200 + image.length ≤ 4096 := by omega
    refine ⟨s.storeBytes 0x200 image, ?_, fun k hk => s.memRead_storeBytes_hit 0x200 image k hk hfit,
      fun a ha => s.memRead_storeBytes_miss 0x200 image a hfit ha, s.storeBytes_eq 0x200 image⟩
    rw [transact_loadProgram, if_neg (Nat.not_lt.2 hlen)]
  · rw [transact_loadProgram, if_pos hlen]

/-! ### The boot sequence (R133) -/

/-- An image copied over the table of R29 is the launch state (R18): FONT, the gap below 0x200 and the zeros above the image are
outside the copy, and a copy writes no field but memory. -/
theorem LaunchState.of_copied {font : Font} {image : List Byte} {s t : State} (hs : LaunchState font [] s)
    (himage : ∀ k (h : k < image.length), t.memRead (0x200 + k) = image[k])
    (hother : ∀ a, (a % 4096 < 0x200 ∨ 0x200 + image.length ≤ a % 4096) → t.memRead a = s.memRead a)
    (hfields : t = { s with mem := t.mem }) : LaunchState font image t := by
  obtain ⟨hregs, hi, hpc, hfont, hgap, -, habove, hstk, hsp, hkeys, hpix, hdt, hst, hrp⟩ := hs
  generalize t.mem = mem at hfields
  subst hfields
  refine ⟨hregs, hi, hpc, fun k => ?_, fun a hlo hhi => ?_, himage, fun a hlo hhi => ?_, hstk, hsp, hkeys, hpix, hdt, hst, hrp⟩
  · exact (hother _ (by omega)).trans (hfont k)
  · exact (hother a (by omega)).trans (hgap a hlo hhi)
  · exact (hother a (by omega)).trans (habove a (Nat.le_of_add_right_le hlo) hhi)

/-- The first fetch after launch is at 0x200 (R133). -/
theorem LaunchState.fetch_eq {font : Font} {image : List Byte} {t : State} (h : LaunchState font image t)
    (hlen : 1 < image.length) : t.fetch = wordOfBytes image[0] image[1] := by
  obtain ⟨-, -, hpc, -, -, himage, -⟩ := h
  rw [← himage 0 (Nat.zero_lt_of_lt hlen), ← himage 1 hlen, State.fetch, hpc]
  rfl

/-- Settles O56: the load of O54 on the state `reset` leaves. -/
theorem bootLeavesTheLaunchState : Obligations.BootLeavesTheLaunchState := by
  intro s image hlen
  obtain ⟨hcopies, -⟩ := loadProgramCopiesTheImageOrRefusesIt
  obtain ⟨t, hload, himage, hother, hfields⟩ := hcopies s.hostReset image hlen
  have hlaunch : LaunchState s.font image t := s.hostReset_launchState.of_copied himage hother hfields
  have hrun : boot s image = .next (t, [.done, .done]) :=
    runTransactions_cons_of_next rfl (runTransactions_cons_of_next hload rfl)
  exact ⟨t, hrun, hlaunch, runTransactions_font hrun, hlaunch.fetch_eq⟩

end Sys2Proof.Machine
